-- ==== Sys2Proof/Word.lean ====
section
/-! DEFINITION. The word type of PDB and the index types of its register files
(00_scope.md R4, R5). -/

namespace Sys2Proof

/-- A word of width W = 32: a sample, a coefficient, a ring word, a command word, a data word
(00_scope.md R4). Rules that read it as signed use `BitVec.toInt`. -/
abbrev Word := BitVec 32

/-- A register number that a 4-bit selector can name: a stage, a buffer, a unit, a program
(30_encoding.md R91, R94). Which of the sixteen exist is `Config`'s to say. -/
abbrev Idx := Fin 16

/-- A channel: 0 is left, 1 is right (N_CH = 2, 00_scope.md R4). -/
abbrev Chan := Fin 2

/-- A sequencer hardware block (N_BLK = 2, 00_scope.md R4). -/
abbrev Blk := Fin 2

/-- An execution core (N_CORE = 2, 00_scope.md R4). -/
abbrev Core := Fin 2

/-- The sixteen register numbers in ascending order. -/
def allIdx : List Idx := [0, 1, 2, 3, 4, 5, 6, 7, 8, 9, 10, 11, 12, 13, 14, 15]

/-- The register numbers below `n`, in ascending order. -/
def below (n : Nat) : List Idx := allIdx.filter (fun i => i.val < n)

end Sys2Proof
end

