-- ==== Sys2Proof/Config.lean ====
section
/-! DEFINITION. What an instance of PDB fixes (the `Config` record of 00_scope.md R4), the ports and
events through which the outside world acts, and the free values. -/

namespace Sys2Proof

/-- DEPTH: how many past inputs and outputs a stage keeps (00_scope.md R4). -/
inductive Depth where
  | one
  | two
deriving DecidableEq, Repr, Inhabited

/-- FB_SIGN: the sign applied to the feedback sum (00_scope.md R4). -/
inductive FbSign where
  | minus
  | plus
deriving DecidableEq, Repr, Inhabited

/-- FB_SIGN as the factor −1 or +1 of 41_iir_filter.md R131. -/
def FbSign.toInt : FbSign → Int
  | .minus => -1
  | .plus => 1

/-- RB_DIR: IN (the engine produces, the foreground consumes) or OUT (the reverse), 00_scope.md R4. -/
inductive Dir where
  | input
  | output
deriving DecidableEq, Repr, Inhabited

/-- The parameters of one ring buffer: RB_N, RB_DIR, XFER_UNIT (00_scope.md R4). -/
structure BufConfig where
  /-- RB_N[b], the capacity in words. -/
  n : Nat
  /-- RB_DIR[b]. -/
  dir : Dir
  /-- XFER_UNIT[b], words per completed transfer unit. -/
  xferUnit : Nat
deriving DecidableEq, Repr, Inhabited

/-- The configuration record of 00_scope.md R4, "supplied once before any component starts; immutable
thereafter". W = 32, ACC_W = 64, N_CH = N_BLK = N_CORE = 2 and SILENCE are fixed there and are not
fields. -/
structure Config where
  /-- Q, the exponent of the coefficient scale and the width of the remainder. -/
  q : Nat
  /-- DEPTH. -/
  depth : Depth
  /-- FB_SIGN. -/
  fbSign : FbSign
  /-- N_ST[ch], stages in the chain of a channel. -/
  nSt : Vector Nat 2
  /-- U, sequencer units per block. -/
  u : Nat
  /-- M, instruction-memory words per block. -/
  m : Nat
  /-- N_PROG, distinct program identifiers. -/
  nProg : Nat
  /-- N_BUF, ring buffers. -/
  nBuf : Nat
  /-- The ring buffers' own parameters; entries at N_BUF and above mean nothing. -/
  buf : Vector BufConfig 16
  /-- IN_SHIFT. -/
  inShift : Nat
  /-- OUT_SHIFT. -/
  outShift : Nat
deriving DecidableEq, Repr

/-- SILENCE, the word substituted on output underrun (00_scope.md R4, 43_ringbuffer.md R187). -/
def Config.silence : Word := 0

/-- N_CH, words per frame (00_scope.md R4). -/
def Config.nCh : Nat := 2

/-- The two rings of the test configurations of 95_test_vectors.md: four words each, buffer 0 IN,
buffer 1 OUT, transfer units of two words. -/
def Config.testRings : Vector BufConfig 16 :=
  (Vector.replicate 16 ⟨4, .input, 2⟩).set 1 ⟨4, .output, 2⟩

/-- CFG-A of 95_test_vectors.md. -/
def Config.cfgA : Config where
  q := 30
  depth := .two
  fbSign := .minus
  nSt := #v[1, 1]
  u := 4
  m := 32
  nProg := 4
  nBuf := 2
  buf := Config.testRings
  inShift := 8
  outShift := 7

/-- CFG-B of 95_test_vectors.md: Q = 4 and two stages on channel 0. -/
def Config.cfgB : Config := { Config.cfgA with q := 4, nSt := #v[2, 1] }

/-! ## The ports and the events -/

/-- The two slots of a command port: thread and handler (30_encoding.md R90). -/
inductive SlotId where
  | T
  | H
deriving DecidableEq, Repr, Inhabited

/-- One of the four command slots: the port's core and the slot (30_encoding.md R90). -/
structure Port where
  core : Core
  slot : SlotId
deriving DecidableEq, Repr, Inhabited

/-- A command as a core presents it: command word and data word (30_encoding.md R90). -/
structure Command where
  cw : Word
  data : Word
deriving DecidableEq, Repr, Inhabited

/-- What can happen next: the agents of 00_scope.md R9 and the reset input of 70_reset_and_hazards.md
R260. One step of the machine is one event (R8, R71). Presenting a command and executing it are two
events, so that every order of outstanding commands can occur (60_exceptions.md R243; DEDUCED, log 4). -/
inductive Event where
  /-- The reset input (R260). -/
  | reset
  /-- A core presents a command on a slot (10_state.md R45). -/
  | present (p : Port) (c : Command)
  /-- PDB executes, or tries again, the command outstanding in a slot (R270). -/
  | serve (p : Port)
  /-- A step of the arbitrator (42_arbitrator.md R153 to R155). -/
  | arb
  /-- A step of a transfer engine (43_ringbuffer.md R185). -/
  | xfer (b : Idx)
deriving DecidableEq, Repr, Inhabited

/-! ## Free values -/

/-- The event that happens next when State's agenda is empty: the schedule and the commands the
cores issue are not fixed by PDB (60_exceptions.md R243; 93 U6, U7). No body, so nothing can be
proved of it (DESIGN CHOICE, log 2). -/
opaque Config.envEvent : Nat → Event

/-- The words of `wire_in[b]` beyond those State already fixes, by reset count, buffer and position:
an arbitrary infinite sequence (10_state.md R36; 93 U5). No body (DESIGN CHOICE, log 7). -/
opaque Config.wireWord : Nat → Idx → Nat → Word

end Sys2Proof
end

