-- ==== Sys2Proof/Syntax.lean ====
section
/-! DEFINITION. The sixteen commands of PDB, one constructor per row of spec/opcode_table.json, with
their operands read from the fields of 30_encoding.md R94 and R95, and the pseudo-commands of R102. -/

namespace Sys2Proof

/-- The commands (30_encoding.md R95). Selectors are the raw 4-bit fields: whether they name something
that exists is checked when the command is executed (R99, R242). -/
inductive Instr where
  /-- BQ.LDC ch, s, k, #coef (40_coefficients.md R123). -/
  | bqLdc (ch st : BitVec 4) (k : BitVec 3) (coef : Word)
  /-- BQ.RDS ch, s, r (40_coefficients.md R125). -/
  | bqRds (ch st r : BitVec 4)
  /-- BQ.STEP ch, s, #x (41_iir_filter.md R137). -/
  | bqStep (ch st : BitVec 4) (x : Word)
  /-- BQ.CHAIN ch, #x (41_iir_filter.md R140). -/
  | bqChain (ch : BitVec 4) (x : Word)
  /-- AL.IN #w (44_sync_and_loop.md R205). -/
  | alIn (w : Word)
  /-- AL.OUT #v (44_sync_and_loop.md R206). -/
  | alOut (v : Word)
  /-- RB.WR b, #w (43_ringbuffer.md R175). -/
  | rbWr (b : BitVec 4) (w : Word)
  /-- RB.WRB b, #w (43_ringbuffer.md R176). -/
  | rbWrb (b : BitVec 4) (w : Word)
  /-- RB.RD b (43_ringbuffer.md R177). -/
  | rbRd (b : BitVec 4)
  /-- RB.RDB b (43_ringbuffer.md R178). -/
  | rbRdb (b : BitVec 4)
  /-- RB.BEGIN b, tblk, tu, cb, #fifo_addr (43_ringbuffer.md R182). -/
  | rbBegin (b tblk tu : BitVec 4) (cb : Bool) (fifoAddr : Word)
  /-- RB.ACK b (43_ringbuffer.md R190). -/
  | rbAck (b : BitVec 4)
  /-- ARB.CLAIM p, len (42_arbitrator.md R151). -/
  | arbClaim (p : BitVec 4) (len : BitVec 8)
  /-- SEQ.EN blk, u (44_sync_and_loop.md R201). -/
  | seqEn (blk u : BitVec 4)
  /-- SYNC.ARM (44_sync_and_loop.md R203). -/
  | syncArm
  /-- CSR.RD csr (45_system.md R220). -/
  | csrRd (csr : BitVec 12)
deriving DecidableEq, Repr

/-- The opcodes of 30_encoding.md R95. -/
inductive Opcode where
  | ldc | rds | step | chain
  | alIn | alOut
  | wr | wrb | rd | rdb | begin_ | ack
  | claim | en | arm | csr
deriving DecidableEq, Repr

/-- The opcode of a command. -/
def Instr.opcode : Instr → Opcode
  | .bqLdc .. => .ldc
  | .bqRds .. => .rds
  | .bqStep .. => .step
  | .bqChain .. => .chain
  | .alIn .. => .alIn
  | .alOut .. => .alOut
  | .rbWr .. => .wr
  | .rbWrb .. => .wrb
  | .rbRd .. => .rd
  | .rbRdb .. => .rdb
  | .rbBegin .. => .begin_
  | .rbAck .. => .ack
  | .arbClaim .. => .claim
  | .seqEn .. => .en
  | .syncArm => .arm
  | .csrRd .. => .csr

/-- The two formats of 30_encoding.md R92: N uses the command word only, D uses the data word too. -/
inductive Format where
  | N
  | D
deriving DecidableEq, Repr

/-- The format column of 30_encoding.md R95. -/
def Opcode.format : Opcode → Format
  | .ldc => .D
  | .rds => .N
  | .step => .D
  | .chain => .D
  | .alIn => .D
  | .alOut => .D
  | .wr => .D
  | .wrb => .D
  | .rd => .N
  | .rdb => .N
  | .begin_ => .D
  | .ack => .N
  | .claim => .N
  | .en => .N
  | .arm => .N
  | .csr => .N

/-- The mnemonic column of 30_encoding.md R95. -/
def Opcode.mnemonic : Opcode → String
  | .ldc => "BQ.LDC"
  | .rds => "BQ.RDS"
  | .step => "BQ.STEP"
  | .chain => "BQ.CHAIN"
  | .alIn => "AL.IN"
  | .alOut => "AL.OUT"
  | .wr => "RB.WR"
  | .wrb => "RB.WRB"
  | .rd => "RB.RD"
  | .rdb => "RB.RDB"
  | .begin_ => "RB.BEGIN"
  | .ack => "RB.ACK"
  | .claim => "ARB.CLAIM"
  | .en => "SEQ.EN"
  | .arm => "SYNC.ARM"
  | .csr => "CSR.RD"

/-- The assembler operands of a command, selectors first and the data word last with a leading `#`
(30_encoding.md R101). -/
def Instr.operands : Instr → List String
  | .bqLdc ch st k coef => [toString ch.toNat, toString st.toNat, toString k.toNat, "#" ++ toString coef.toNat]
  | .bqRds ch st r => [toString ch.toNat, toString st.toNat, toString r.toNat]
  | .bqStep ch st x => [toString ch.toNat, toString st.toNat, "#" ++ toString x.toNat]
  | .bqChain ch x => [toString ch.toNat, "#" ++ toString x.toNat]
  | .alIn w => ["#" ++ toString w.toNat]
  | .alOut v => ["#" ++ toString v.toNat]
  | .rbWr b w => [toString b.toNat, "#" ++ toString w.toNat]
  | .rbWrb b w => [toString b.toNat, "#" ++ toString w.toNat]
  | .rbRd b => [toString b.toNat]
  | .rbRdb b => [toString b.toNat]
  | .rbBegin b tblk tu cb a =>
    [toString b.toNat, toString tblk.toNat, toString tu.toNat, toString cb.toNat, "#" ++ toString a.toNat]
  | .rbAck b => [toString b.toNat]
  | .arbClaim p len => [toString p.toNat, toString len.toNat]
  | .seqEn blk u => [toString blk.toNat, toString u.toNat]
  | .syncArm => []
  | .csrRd csr => [toString csr.toNat]

/-- A command in the assembler syntax of 30_encoding.md R101, operands in decimal. -/
def Instr.asm (i : Instr) : String :=
  i.opcode.mnemonic ++ (if i.operands = [] then "" else " " ++ String.intercalate ", " i.operands)

/-- The pseudo-commands of 30_encoding.md R102. -/
inductive Pseudo where
  /-- BQ.LDALL ch, s, #b0, #b1, #b2, #a1, #a2. -/
  | ldall (ch st : BitVec 4) (b0 b1 b2 a1 a2 : Word)
  /-- BQ.IDENT ch, s. -/
  | ident (ch st : BitVec 4)
  /-- RB.RDF b. -/
  | rdf (b : BitVec 4)
  /-- RB.WRF b, #l, #r. -/
  | wrf (b : BitVec 4) (l r : Word)
deriving DecidableEq, Repr

end Sys2Proof
end

