-- ==== Sys2Proof/WellFormed.lean ====
section
/-! DEFINITION. Which configurations are legal (00_scope.md R4) and which commands name only things that
exist in a configuration (30_encoding.md R99). Every term of `Instr` has an encoding, since its fields
have the widths of 30_encoding.md R94; what can be ill-formed is a selector or an index. -/

namespace Sys2Proof

/-- The bounds of one ring buffer: RB_N a multiple of N_CH between 2·N_CH and 2^15, XFER_UNIT a multiple
of N_CH between N_CH and RB_N (00_scope.md R4). -/
abbrev BufConfig.Valid (b : BufConfig) : Prop :=
  b.n % 2 = 0 ∧ 4 ≤ b.n ∧ b.n ≤ 2 ^ 15 ∧ b.xferUnit % 2 = 0 ∧ 2 ≤ b.xferUnit ∧ b.xferUnit ≤ b.n

/-- The ranges of 00_scope.md R4. -/
abbrev Config.Valid (c : Config) : Prop :=
  (1 ≤ c.q ∧ c.q ≤ 30) ∧ (∀ ch : Chan, c.nSt[ch] ≤ 16) ∧ (1 ≤ c.u ∧ c.u ≤ 16) ∧
  (1 ≤ c.m ∧ c.m ≤ 255) ∧ (1 ≤ c.nProg ∧ c.nProg ≤ 16) ∧ (1 ≤ c.nBuf ∧ c.nBuf ≤ 16) ∧
  (∀ b : Idx, b.val < c.nBuf → (c.buf[b]).Valid) ∧ c.inShift ≤ 31 ∧ c.outShift ≤ 31

/-- A stage selector pair names a stage: ch < N_CH and s < N_ST[ch] (30_encoding.md R99). -/
def Config.hasStage (c : Config) (ch st : BitVec 4) : Bool :=
  (ch.toNat == 0 && decide (st.toNat < c.nSt[0])) || (ch.toNat == 1 && decide (st.toNat < c.nSt[1]))

/-- A CSR number of the map: 45_system.md R225's list of implemented numbers. -/
def Config.hasCsr (c : Config) (n : Nat) : Bool :=
  decide (n ≤ 0x003) || decide (0x010 ≤ n ∧ n ≤ 0x015) || decide (0x020 ≤ n ∧ n < 0x020 + c.nProg) ||
  decide (0x030 ≤ n ∧ n < 0x030 + c.nProg) || decide (0x100 ≤ n ∧ n < 0x100 + 8 * c.nBuf)

/-- Every selector and index of the command names something that exists (30_encoding.md R99). A command
for which this is false is answered BADSEL. -/
def Instr.wellFormed (c : Config) : Instr → Bool
  | .bqLdc ch st k _ => c.hasStage ch st && decide (k.toNat ≤ 4)
  | .bqRds ch st r => c.hasStage ch st && decide (r.toNat ≤ 9)
  | .bqStep ch st _ => c.hasStage ch st
  | .bqChain ch _ => decide (ch.toNat < 2)
  | .alIn _ => true
  | .alOut _ => true
  | .rbWr b _ => decide (b.toNat < c.nBuf)
  | .rbWrb b _ => decide (b.toNat < c.nBuf)
  | .rbRd b => decide (b.toNat < c.nBuf)
  | .rbRdb b => decide (b.toNat < c.nBuf)
  | .rbBegin b tblk tu _ _ => decide (b.toNat < c.nBuf) && decide (tblk.toNat < 2) && decide (tu.toNat < c.u)
  | .rbAck b => decide (b.toNat < c.nBuf)
  | .arbClaim p len => decide (p.toNat < c.nProg) && decide (1 ≤ len.toNat ∧ len.toNat ≤ c.m)
  | .seqEn blk u => decide (blk.toNat < 2) && decide (u.toNat < c.u)
  | .syncArm => true
  | .csrRd csr => c.hasCsr csr.toNat

end Sys2Proof
end

