-- ==== Sys2Proof/Decode.lean ====
section
/-! DEFINITION. From command word and data word to a command, and back (30_encoding.md R91 to R98). -/

namespace Sys2Proof

/-! ## The fields of a command word (R91, R94) -/

/-- `op`, bits 31:24. -/
def opField (cw : Word) : BitVec 8 := cw.extractLsb' 24 8

/-- `sa`, bits 23:20. -/
def saField (cw : Word) : BitVec 4 := cw.extractLsb' 20 4

/-- `sb`, bits 19:16. -/
def sbField (cw : Word) : BitVec 4 := cw.extractLsb' 16 4

/-- `imm16`, bits 15:0. -/
def immField (cw : Word) : BitVec 16 := cw.extractLsb' 0 16

/-- The `op` column of R95. -/
def Opcode.code : Opcode → BitVec 8
  | .ldc => 0x10#8
  | .rds => 0x11#8
  | .step => 0x12#8
  | .chain => 0x13#8
  | .alIn => 0x18#8
  | .alOut => 0x19#8
  | .wr => 0x20#8
  | .wrb => 0x21#8
  | .rd => 0x22#8
  | .rdb => 0x23#8
  | .begin_ => 0x24#8
  | .ack => 0x25#8
  | .claim => 0x30#8
  | .en => 0x31#8
  | .arm => 0x32#8
  | .csr => 0x3F#8

/-- The opcodes in the order of the opcode table. -/
def Opcode.all : List Opcode :=
  [.ldc, .rds, .step, .chain, .alIn, .alOut, .wr, .wrb, .rd, .rdb, .begin_, .ack, .claim, .en, .arm, .csr]

/-- The opcode with a given `op` byte; every other byte is reserved (R97). -/
def Opcode.ofCode (b : BitVec 8) : Option Opcode := Opcode.all.find? (fun o => o.code == b)

/-- The must-be-zero fields of R94 and R95 are zero. -/
def mbzClear (o : Opcode) (cw : Word) : Bool :=
  match o with
  | .ldc => (immField cw).extractLsb' 3 13 == 0
  | .rds => (immField cw).extractLsb' 4 12 == 0
  | .step => immField cw == 0
  | .chain => sbField cw == 0 && immField cw == 0
  | .alIn => saField cw == 0 && sbField cw == 0 && immField cw == 0
  | .alOut => saField cw == 0 && sbField cw == 0 && immField cw == 0
  | .wr => sbField cw == 0 && immField cw == 0
  | .wrb => sbField cw == 0 && immField cw == 0
  | .rd => sbField cw == 0 && immField cw == 0
  | .rdb => sbField cw == 0 && immField cw == 0
  | .begin_ => sbField cw == 0 && (immField cw).extractLsb' 9 7 == 0
  | .ack => sbField cw == 0 && immField cw == 0
  | .claim => saField cw == 0 && sbField cw == 0 && (immField cw).extractLsb' 4 4 == 0
  | .en => immField cw == 0
  | .arm => saField cw == 0 && sbField cw == 0 && immField cw == 0
  | .csr => saField cw == 0 && sbField cw == 0 && (immField cw).extractLsb' 12 4 == 0

/-- The command that a legal word with opcode `o` spells: operands read directly from the bits (R94),
the data word used by format D and ignored by format N (R92, R95). -/
def assemble (o : Opcode) (cw data : Word) : Instr :=
  match o with
  | .ldc => .bqLdc (saField cw) (sbField cw) ((immField cw).extractLsb' 0 3) data
  | .rds => .bqRds (saField cw) (sbField cw) ((immField cw).extractLsb' 0 4)
  | .step => .bqStep (saField cw) (sbField cw) data
  | .chain => .bqChain (saField cw) data
  | .alIn => .alIn data
  | .alOut => .alOut data
  | .wr => .rbWr (saField cw) data
  | .wrb => .rbWrb (saField cw) data
  | .rd => .rbRd (saField cw)
  | .rdb => .rbRdb (saField cw)
  | .begin_ =>
    .rbBegin (saField cw) ((immField cw).extractLsb' 4 4) ((immField cw).extractLsb' 0 4)
      ((immField cw).getLsbD 8) data
  | .ack => .rbAck (saField cw)
  | .claim => .arbClaim ((immField cw).extractLsb' 0 4) ((immField cw).extractLsb' 8 8)
  | .en => .seqEn (saField cw) (sbField cw)
  | .arm => .syncArm
  | .csr => .csrRd ((immField cw).extractLsb' 0 12)

/-- Why a word spells no command (R97, R98); PDB answers both with ILLEGAL. -/
inductive DecodeError where
  /-- The `op` byte is not in R95 (R97). -/
  | reservedOpcode (op : BitVec 8)
  /-- A must-be-zero bit is set (R98). -/
  | mustBeZero (o : Opcode)
deriving DecidableEq, Repr

/-- The decoder, total on every pair of words (R100). -/
def decode (cw data : Word) : Except DecodeError Instr :=
  match Opcode.ofCode (opField cw) with
  | none => .error (.reservedOpcode (opField cw))
  | some o => if mbzClear o cw then .ok (assemble o cw data) else .error (.mustBeZero o)

/-! ## The encoder -/

/-- {op, sa, sb, imm16} (R91). -/
def packWord (o : Opcode) (sa sb : BitVec 4) (imm : BitVec 16) : Word :=
  (o.code ++ sa ++ sb ++ imm : BitVec 32)

/-- The words of a command (R91, R94, R95); format N commands carry a data word of 0, which PDB ignores
(R90). -/
def encode (i : Instr) : Command :=
  match i with
  | .bqLdc ch st k coef => ⟨packWord .ldc ch st (k.setWidth 16), coef⟩
  | .bqRds ch st r => ⟨packWord .rds ch st (r.setWidth 16), 0⟩
  | .bqStep ch st x => ⟨packWord .step ch st 0, x⟩
  | .bqChain ch x => ⟨packWord .chain ch 0 0, x⟩
  | .alIn w => ⟨packWord .alIn 0 0 0, w⟩
  | .alOut v => ⟨packWord .alOut 0 0 0, v⟩
  | .rbWr b w => ⟨packWord .wr b 0 0, w⟩
  | .rbWrb b w => ⟨packWord .wrb b 0 0, w⟩
  | .rbRd b => ⟨packWord .rd b 0 0, 0⟩
  | .rbRdb b => ⟨packWord .rdb b 0 0, 0⟩
  | .rbBegin b tblk tu cb a =>
    ⟨packWord .begin_ b 0 ((0#7 ++ BitVec.ofBool cb ++ tblk ++ tu : BitVec 16)), a⟩
  | .rbAck b => ⟨packWord .ack b 0 0, 0⟩
  | .arbClaim p len => ⟨packWord .claim 0 0 ((len ++ 0#4 ++ p : BitVec 16)), 0⟩
  | .seqEn blk u => ⟨packWord .en blk u 0, 0⟩
  | .syncArm => ⟨packWord .arm 0 0 0, 0⟩
  | .csrRd csr => ⟨packWord .csr 0 0 (csr.setWidth 16), 0⟩

/-! ## The opcode table -/

/-- One row of spec/opcode_table.json: a word is legal exactly when `cw AND mask = match` for one row
(R98). -/
structure OpRow where
  op : Opcode
  pattern : Word
  mask : Word
deriving DecidableEq, Repr

/-- The sixteen rows of spec/opcode_table.json, `match` and `mask` as they stand there. -/
def opTable : List OpRow :=
  [⟨.ldc, 0x10000000, 0xFF00FFF8⟩, ⟨.rds, 0x11000000, 0xFF00FFF0⟩, ⟨.step, 0x12000000, 0xFF00FFFF⟩,
   ⟨.chain, 0x13000000, 0xFF0FFFFF⟩, ⟨.alIn, 0x18000000, 0xFFFFFFFF⟩, ⟨.alOut, 0x19000000, 0xFFFFFFFF⟩,
   ⟨.wr, 0x20000000, 0xFF0FFFFF⟩, ⟨.wrb, 0x21000000, 0xFF0FFFFF⟩] ++
  [⟨.rd, 0x22000000, 0xFF0FFFFF⟩, ⟨.rdb, 0x23000000, 0xFF0FFFFF⟩, ⟨.begin_, 0x24000000, 0xFF0FFE00⟩,
   ⟨.ack, 0x25000000, 0xFF0FFFFF⟩, ⟨.claim, 0x30000000, 0xFFFF00F0⟩, ⟨.en, 0x31000000, 0xFF00FFFF⟩,
   ⟨.arm, 0x32000000, 0xFFFFFFFF⟩, ⟨.csr, 0x3F000000, 0xFFFFF000⟩]

/-- The word matches the row (R98). -/
def OpRow.matches (r : OpRow) (cw : Word) : Bool := cw &&& r.mask == r.pattern

/-! ## Reading a table word -/

/-- The command and data words of an instruction given as one number with the command word in bits
31:0 and the data word in bits 63:32; the bits from `nbits` up are 0. -/
def tableCommand (nbits w : Nat) : Command :=
  let v := w % 2 ^ nbits
  ⟨BitVec.ofNat 32 v, BitVec.ofNat 32 (v / 2 ^ 32)⟩

/-- The instruction the decoder reads from a table word; none where it refuses. -/
def decodeTableWord (nbits w : Nat) : Option Instr :=
  (decode (tableCommand nbits w).cw (tableCommand nbits w).data).toOption

end Sys2Proof
end

