-- ==== Sys2Proof/Machine/State.lean ====
section
/-! DEFINITION. The state of PDB as plain data (10_state.md), its reset values (R46), and the reasons a
step can stop. -/

namespace Sys2Proof.Machine

/-! ## The filter register file -/

/-- The registers of one filter stage (10_state.md R20 to R24). -/
structure Stage where
  /-- `coef[ch][s][k]`: b0, b1, b2, a1, a2 (R20). -/
  coef : Vector Word 5
  /-- `cval[ch][s][k]` (R21). -/
  cval : Vector Bool 5
  /-- Input history (R22). -/
  x1 : Word
  x2 : Word
  /-- Output history (R23). -/
  y1 : Word
  y2 : Word
  /-- The carried remainder, below 2^Q (R24). -/
  rem : Nat
deriving DecidableEq, Repr

/-! ## Ring buffers -/

/-- A ring array: (index, word) pairs, indices strictly rising; an index that is not listed has been
written by nothing since reset and holds no value (R30; DESIGN CHOICE, log 8). PDB moves words only and
has no byte (20_memory.md R65). -/
abbrev Memory := List (Nat × Word)

/-- A sequencer unit (`blk`, `u`). -/
structure UnitId where
  blk : Blk
  u : Idx
deriving DecidableEq, Repr

/-- The state of one ring buffer and its transfer engine (10_state.md R30 to R36). -/
structure Buffer where
  /-- `mem[b]` (R30). -/
  mem : Memory
  /-- `head[b]`, the write index, modulo 2·RB_N[b] (R31). -/
  head : Nat
  /-- `tail[b]`, the read index, modulo 2·RB_N[b] (R31). -/
  tail : Nat
  /-- `bound[b]` (R33). -/
  bound : Bool
  /-- `trig[b]` (R33). -/
  trig : UnitId
  /-- `fifo_addr[b]` (R33). -/
  fifoAddr : Word
  /-- `cb_en[b]` (R33). -/
  cbEn : Bool
  /-- `irq_core[b]` (R33). -/
  irqCore : Core
  /-- `irq_pend[b]` (R34). -/
  irqPend : Bool
  /-- `overrun[b]`, sticky (R34). -/
  overrun : Bool
  /-- `underrun[b]`, sticky (R34). -/
  underrun : Bool
  /-- `phase[b]`, position in the current frame (R35). -/
  phase : Nat
  /-- `latch[b]`, the accept-or-substitute decision for the current frame (R35). -/
  latch : Bool
  /-- `ucount[b]`, words of the current transfer unit already moved (R35). -/
  ucount : Nat
  /-- `units[b]`, transfer units completed (R35). -/
  units : Word
  /-- `drops[b]`, frames dropped or substituted (R35). -/
  drops : Word
  /-- `win_pos[b]`, words taken from `wire_in[b]` (R36). -/
  winPos : Nat
  /-- `wire_out[b]`, oldest word first (R36). -/
  wireOut : List Word
  /-- MODEL'S OWN: the words of `wire_in[b]` the environment has already fixed (DESIGN CHOICE, log 7). -/
  wireIn : List Word
deriving DecidableEq, Repr

/-! ## The arbitrator and the units -/

/-- `table[blk][p]` (10_state.md R37). -/
structure TableEntry where
  valid : Bool
  offset : BitVec 8
  len : BitVec 8
deriving DecidableEq, Repr

/-- `unit_state[blk][u]` (10_state.md R41). -/
inductive UnitState where
  | free
  | claimed
  | waiting
  | running
deriving DecidableEq, Repr

/-- The per-block state (10_state.md R37, R38, R41). -/
structure Block where
  table : Vector TableEntry 16
  /-- `imem_used[blk]`, in [0, M] (R38). -/
  imemUsed : Nat
  /-- `load_count[blk]` (R38). -/
  loadCount : Word
  unitState : Vector UnitState 16
deriving DecidableEq, Repr

/-- `lock` (10_state.md R40); `owner` is meaningful only while `held`. -/
structure Lock where
  held : Bool
  owner : Core
deriving DecidableEq, Repr

/-- `arb_state` (10_state.md R42). -/
inductive ArbState where
  | idle
  | scan
  | load
  | record
deriving DecidableEq, Repr

/-- `arb_req`, the claim in progress (10_state.md R42). -/
structure ArbReq where
  port : Port
  p : Idx
  len : BitVec 8
deriving DecidableEq, Repr

/-- `arb_sel`, the unit chosen and the offset found (10_state.md R42). -/
structure ArbSel where
  unit : UnitId
  offset : BitVec 8
deriving DecidableEq, Repr

/-! ## Ports and responses -/

/-- The two slots of one port (10_state.md R45). -/
structure PortSlots where
  T : Option Command
  H : Option Command
deriving DecidableEq, Repr

/-- The status codes by name (30_encoding.md R96). -/
inductive Status where
  | ok
  | full
  | empty
  | illegal
  | badsel
  | badstate
  | halted
  | resourceExhausted
  | deadlock
  | transferInitFailure
deriving DecidableEq, Repr

/-- One response, with the slot it is delivered to (30_encoding.md R93). -/
structure Response where
  port : Port
  status : Status
  rdata : Word
deriving DecidableEq, Repr

/-! ## The whole state -/

/-- The state of PDB (10_state.md R20 to R45), the configuration it runs under, and the model's own
fields. -/
structure State where
  /-- `Config`, a parameter of the step relation by R47, written by nothing (DESIGN CHOICE, log 1). -/
  cfg : Config
  /-- The filter register file, by channel and stage (R20 to R24). -/
  filt : Vector (Vector Stage 16) 2
  /-- The ring buffers (R30 to R36). -/
  bufs : Vector Buffer 16
  /-- The sequencer blocks (R37, R38, R41). -/
  blks : Vector Block 2
  /-- The cross-core lock (R40). -/
  lock : Lock
  /-- The arbitrator (R42). -/
  arbState : ArbState
  arbReq : ArbReq
  arbSel : ArbSel
  /-- `armed` (R43). -/
  armed : Bool
  /-- `halt`, `err_code`, `err_core` (R44). -/
  halt : Bool
  errCode : BitVec 8
  errCore : Core
  /-- The command slots, by core (R45). -/
  slots : Vector PortSlots 2
  /-- MODEL'S OWN: the port and slot of the command being executed, the sideband of R90 (log 15). -/
  issuer : Port
  /-- MODEL'S OWN: the responses delivered so far, oldest first (R10; log 15). -/
  trace : List Response
  /-- MODEL'S OWN: the events to come, the next one first (log 2). -/
  agenda : List Event
  /-- MODEL'S OWN: how many events the free schedule has supplied (log 2). -/
  envPos : Nat
  /-- MODEL'S OWN: how many resets there have been (log 7). -/
  era : Nat
deriving DecidableEq, Repr

/-! ## Reset values (10_state.md R46) -/

/-- A stage after reset. The coefficients' value is the model's (R20 gives none; DESIGN CHOICE, log 9)
and cannot be read, since every `cval` is 0. -/
def Stage.reset : Stage where
  coef := Vector.replicate 5 0
  cval := Vector.replicate 5 false
  x1 := 0
  x2 := 0
  y1 := 0
  y2 := 0
  rem := 0

/-- A ring buffer after reset: empty, unbound, no word of its array written. -/
def Buffer.reset : Buffer where
  mem := []
  head := 0
  tail := 0
  bound := false
  trig := ⟨0, 0⟩
  fifoAddr := 0
  cbEn := false
  irqCore := 0
  irqPend := false
  overrun := false
  underrun := false
  phase := 0
  latch := false
  ucount := 0
  units := 0
  drops := 0
  winPos := 0
  wireOut := []
  wireIn := []

/-- A sequencer block after reset: no program resident, every unit FREE. -/
def Block.reset : Block where
  table := Vector.replicate 16 ⟨false, 0, 0⟩
  imemUsed := 0
  loadCount := 0
  unitState := Vector.replicate 16 .free

/-- The state right after reset under configuration `c` (R46, R261), with nothing yet on the agenda. The
slot of `arb_req` is T (DESIGN CHOICE, log 24). -/
def State.resetWith (c : Config) : State where
  cfg := c
  filt := Vector.replicate 2 (Vector.replicate 16 Stage.reset)
  bufs := Vector.replicate 16 Buffer.reset
  blks := Vector.replicate 2 Block.reset
  lock := ⟨false, 0⟩
  arbState := .idle
  arbReq := ⟨⟨0, .T⟩, 0, 0⟩
  arbSel := ⟨⟨0, 0⟩, 0⟩
  armed := false
  halt := false
  errCode := 0
  errCore := 0
  slots := Vector.replicate 2 ⟨none, none⟩
  issuer := ⟨0, .T⟩
  trace := []
  agenda := []
  envPos := 0
  era := 0

/-- The machine right after reset, under the spec's test configuration CFG-B (95_test_vectors.md). Which
configuration stands here is the model's choice (log 1): statements range over `State.resetWith c`. -/
def State.reset : State := State.resetWith Config.cfgB

/-! ## Why a step can stop -/

/-- The model's faults: the operations the spec leaves undefined. No reachable state runs into one
(Safety.lean); stopping there is safe. -/
inductive Fault where
  /-- Raised by `enqueue` on a full ring: "defined only when free[b] ≥ 1" (43_ringbuffer.md R171). Safe. -/
  | enqueueFull
  /-- Raised by `dequeue` on an empty ring: "defined only when fill[b] ≥ 1" (43_ringbuffer.md R172). Safe. -/
  | dequeueEmpty
  /-- Raised by `memRead` and `memWrite` on an index that is not below RB_N[b] (00_scope.md R7). Safe. -/
  | ringIndex
  /-- Raised by `memRead` on a word that nothing has written since reset, whose content is unspecified
  (10_state.md R30). Safe. -/
  | unwrittenWord
deriving DecidableEq, Repr

/-- The model's refusals. -/
inductive Refusal where
  /-- An instruction without a meaning; raised by no arm of `exec`. Safe. -/
  | notModelled (mnemonic : String)
deriving DecidableEq, Repr

end Sys2Proof.Machine
end

