-- ==== Sys2Proof/Machine/Operands.lean ====
section
/-! DEFINITION. How operands are read: fixed-point readings (00_scope.md R5, R6), selectors and indices
(30_encoding.md R94, R99), the register numbers of `BQ.RDS` and the CSR numbers of `CSR.RD`. -/

namespace Sys2Proof.Machine

/-! ## Integers and words (00_scope.md R5, R6) -/

/-- `wrap_n(z)`. -/
def wrap (n : Nat) (z : Int) : BitVec n := BitVec.ofInt n z

/-- `asr(z, k)` = floor(z / 2^k). -/
def asr (z : Int) (k : Nat) : Int := z / 2 ^ k

/-- `low(z, k)` = z mod 2^k. -/
def low (z : Int) (k : Nat) : Nat := (z % 2 ^ k).toNat

/-- `s_32(v)`. -/
def s32 (v : Word) : Int := v.toInt

/-! ## Selectors (30_encoding.md R99) -/

/-- A channel selector: none when ch ≥ N_CH. -/
def selChan (ch : BitVec 4) : Option Chan :=
  if h : ch.toNat < 2 then some ⟨ch.toNat, h⟩ else none

/-- A stage selector of channel `ch`: none when s ≥ N_ST[ch]. -/
def selStage (c : Config) (ch : Chan) (st : BitVec 4) : Option Idx :=
  if st.toNat < c.nSt[ch] then some st.toFin else none

/-- A coefficient index: none when k > 4. -/
def selCoef (k : BitVec 3) : Option (Fin 5) :=
  if h : k.toNat < 5 then some ⟨k.toNat, h⟩ else none

/-- A buffer selector: none when b ≥ N_BUF. -/
def selBuf (c : Config) (b : BitVec 4) : Option Idx :=
  if b.toNat < c.nBuf then some b.toFin else none

/-- A unit: none when blk ≥ 2 or u ≥ U. -/
def selUnit (c : Config) (blk u : BitVec 4) : Option UnitId :=
  if h : blk.toNat < 2 then
    if u.toNat < c.u then some ⟨⟨blk.toNat, h⟩, u.toFin⟩ else none
  else none

/-- A program identifier: none when p ≥ N_PROG. -/
def selProg (c : Config) (p : BitVec 4) : Option Idx :=
  if p.toNat < c.nProg then some p.toFin else none

/-- A program length is in range: 1 ≤ len ≤ M. -/
def lenOk (c : Config) (len : BitVec 8) : Bool :=
  decide (1 ≤ len.toNat ∧ len.toNat ≤ c.m)

/-! ## The registers of a stage by number (40_coefficients.md R125) -/

/-- The registers `BQ.RDS` can name. -/
inductive StageReg where
  | coef (k : Fin 5)
  | x1
  | x2
  | y1
  | y2
  | rem
deriving DecidableEq, Repr

/-- The register index `r` of `BQ.RDS`: none when r > 9 (R125, R99). -/
def selReg (r : BitVec 4) : Option StageReg :=
  if h : r.toNat < 5 then some (.coef ⟨r.toNat, h⟩)
  else if r.toNat = 5 then some .x1
  else if r.toNat = 6 then some .x2
  else if r.toNat = 7 then some .y1
  else if r.toNat = 8 then some .y2
  else if r.toNat = 9 then some .rem
  else none

/-! ## CSR numbers (45_system.md R221 to R225) -/

/-- The CSRs of 45_system.md. -/
inductive Csr where
  | sysStatus
  | lock
  | arbState
  | sync
  | unitState (blk : Blk)
  | imemUsed (blk : Blk)
  | loadCount (blk : Blk)
  | table (blk : Blk) (p : Idx)
  | rbStatus (b : Idx)
  | rbHead (b : Idx)
  | rbTail (b : Idx)
  | rbFill (b : Idx)
  | rbUnits (b : Idx)
  | rbDrops (b : Idx)
  | rbFifoAddr (b : Idx)
  | rbTrig (b : Idx)
deriving DecidableEq, Repr

/-- The CSR at offset `r` of buffer `b`'s eight (R223). -/
def selRbCsr (b : Idx) (r : Nat) : Csr :=
  match r with
  | 0 => .rbStatus b
  | 1 => .rbHead b
  | 2 => .rbTail b
  | 3 => .rbFill b
  | 4 => .rbUnits b
  | 5 => .rbDrops b
  | 6 => .rbFifoAddr b
  | _ => .rbTrig b

/-- The program of `TABLE` CSR number `base + p`: none when p ≥ N_PROG (R222). -/
def selTable (c : Config) (blk : Blk) (p : Nat) : Option Csr :=
  if h : p < 16 then if p < c.nProg then some (.table blk ⟨p, h⟩) else none else none

/-- The CSR with a given number: none for the unimplemented numbers (R225). -/
def selCsr (c : Config) (csr : BitVec 12) : Option Csr :=
  let n := csr.toNat
  if n = 0x000 then some .sysStatus
  else if n = 0x001 then some .lock
  else if n = 0x002 then some .arbState
  else if n = 0x003 then some .sync
  else if n = 0x010 then some (.unitState 0)
  else if n = 0x011 then some (.unitState 1)
  else if n = 0x012 then some (.imemUsed 0)
  else if n = 0x013 then some (.imemUsed 1)
  else if n = 0x014 then some (.loadCount 0)
  else if n = 0x015 then some (.loadCount 1)
  else if 0x020 ≤ n ∧ n < 0x030 then selTable c 0 (n - 0x020)
  else if 0x030 ≤ n ∧ n < 0x040 then selTable c 1 (n - 0x030)
  else if 0x100 ≤ n then
    if h : (n - 0x100) / 8 < 16 then
      if (n - 0x100) / 8 < c.nBuf then some (selRbCsr ⟨(n - 0x100) / 8, h⟩ ((n - 0x100) % 8)) else none
    else none
  else none

/-! ## Packing fields into a word -/

/-- A field of `width` bits whose lowest bit is bit `lo` of the word; a value that does not fit is cut to
the field (it never is in a reachable state; log 18). -/
def packField (lo width v : Nat) : Nat := (v % 2 ^ width) * 2 ^ lo

/-- A one-bit field at bit `lo`. -/
def packBit (lo : Nat) (v : Bool) : Nat := packField lo 1 v.toNat

/-- The word made of fields that do not overlap; bits not listed are 0. -/
def packWordOf (fields : List Nat) : Word := BitVec.ofNat 32 fields.sum

/-- The `rdata` of a claim: blk at bits 23:20, u at bits 19:16, offset at bits 7:0 (30_encoding.md
R104). -/
def packClaim (sel : ArbSel) : Word :=
  packWordOf [packField 20 4 sel.unit.blk.val, packField 16 4 sel.unit.u.val, packField 0 8 sel.offset.toNat]

end Sys2Proof.Machine
end

