-- ==== Sys2Proof/Machine/Flags.lean ====
section
/-! DEFINITION. Every condition that is computed from state: PDB has no arithmetic condition codes
(10_state.md R28), only one-bit status flags held in State and the conditions below. Also the codes by
which flags and states read in a CSR or a response. -/

namespace Sys2Proof.Machine

/-! ## Ring buffers (10_state.md R32) -/

/-- `fill[b]` = (head − tail) mod 2·RB_N[b]. -/
def fill (c : BufConfig) (b : Buffer) : Nat :=
  (((b.head : Int) - (b.tail : Int)) % ((2 * c.n : Nat) : Int)).toNat

/-- `free[b]` = RB_N[b] − fill[b]. -/
def freeWords (c : BufConfig) (b : Buffer) : Nat := c.n - fill c b

/-- The buffer is empty: fill = 0. -/
def isEmpty (c : BufConfig) (b : Buffer) : Bool := fill c b == 0

/-- The buffer is full: fill = RB_N. -/
def isFull (c : BufConfig) (b : Buffer) : Bool := fill c b == c.n

/-! ## Filter stages -/

/-- The stage is loaded: all five valid bits are 1 (10_state.md R21, 41_iir_filter.md R138). -/
def loaded (st : Stage) : Bool :=
  st.cval[0] && st.cval[1] && st.cval[2] && st.cval[3] && st.cval[4]

/-- Every stage of the chain of channel `ch` is loaded (41_iir_filter.md R138, R140). -/
def chainLoaded (s : State) (ch : Chan) : Bool :=
  (below s.cfg.nSt[ch]).all (fun i => loaded (s.filt[ch])[i])

/-! ## Units and engines -/

/-- The existing units in scan order: block 0 before block 1, then by unit number (42_arbitrator.md
R153). -/
def allUnits (c : Config) : List UnitId :=
  (below c.u).map (fun u => ⟨0, u⟩) ++ (below c.u).map (fun u => ⟨1, u⟩)

/-- `unit_state[blk][u]`. -/
def unitStateOf (s : State) (x : UnitId) : UnitState := ((s.blks[x.blk]).unitState)[x.u]

/-- `XFER[b]` has an enabled step: bound, and its trigger unit RUNNING; neither `halt` nor the ring's
fill matters (43_ringbuffer.md R185). -/
def xferEnabled (s : State) (b : Idx) : Bool :=
  decide (b.val < s.cfg.nBuf) && (s.bufs[b]).bound && decide (unitStateOf s (s.bufs[b]).trig = .running)

/-- The four causes of TransferInitFailure, for binding buffer `b` to unit `x` at FIFO address `a`
(43_ringbuffer.md R182, R183). -/
def beginFails (s : State) (b : Idx) (x : UnitId) (a : Word) : Bool :=
  (s.bufs[b]).bound || decide (a.toNat % 4 ≠ 0) ||
  decide (unitStateOf s x = .free) || decide (unitStateOf s x = .running) ||
  (below s.cfg.nBuf).any (fun b2 => decide (b2 ≠ b) && (s.bufs[b2]).bound && decide ((s.bufs[b2]).trig = x))

/-! ## The arbitrator -/

/-- The command in slot `p` is the claim in progress in the arbitrator: it is outstanding but not held,
so PDB does not try it again (42_arbitrator.md R151, R152; DEDUCED, log 21). -/
def claimInProgress (s : State) (p : Port) : Bool :=
  decide (s.arbState ≠ .idle) && decide (s.arbReq.port = p)

/-! ## Interrupt lines (60_exceptions.md R238) -/

/-- The level of `IRQ[c]`. -/
def irqLine (s : State) (c : Core) : Bool :=
  (below s.cfg.nBuf).any
    (fun b => (s.bufs[b]).irqPend && (s.bufs[b]).cbEn && decide ((s.bufs[b]).irqCore = c))

/-! ## Codes -/

/-- The status codes of 30_encoding.md R96. -/
def statusCode : Status → BitVec 8
  | .ok => 0x00#8
  | .full => 0x01#8
  | .empty => 0x02#8
  | .illegal => 0x03#8
  | .badsel => 0x04#8
  | .badstate => 0x05#8
  | .halted => 0x06#8
  | .resourceExhausted => 0x81#8
  | .deadlock => 0x82#8
  | .transferInitFailure => 0x83#8

/-- The two-bit code of a unit's state (10_state.md R41). -/
def unitCode : UnitState → Nat
  | .free => 0
  | .claimed => 1
  | .waiting => 2
  | .running => 3

/-- The two-bit code of the arbitrator's state (10_state.md R42). -/
def arbCode : ArbState → Nat
  | .idle => 0
  | .scan => 1
  | .load => 2
  | .record => 3

/-- The DIR bit (45_system.md R223). -/
def dirCode : Dir → Nat
  | .input => 0
  | .output => 1

end Sys2Proof.Machine
end

