-- ==== Sys2Proof/Machine/Ops.lean ====
section
/-! DEFINITION. The named operations over registers, memory, slots and the error state that the meanings
share: register file access, the ring arrays and their queue primitives (43_ringbuffer.md R171, R172),
responding (30_encoding.md R93), entering HALT (60_exceptions.md R235), the reset input
(70_reset_and_hazards.md R260), presenting a command (10_state.md R45), and taking the next event. -/

namespace Sys2Proof.Machine

/-! ## Register files -/

/-- The registers of stage (ch, i). -/
def stageOf (s : State) (ch : Chan) (i : Idx) : Stage := (s.filt[ch])[i]

/-- Write the registers of stage (ch, i); distinct stages are distinct registers (10_state.md R25). -/
def setStage (s : State) (ch : Chan) (i : Idx) (st : Stage) : State :=
  { s with filt := s.filt.set ch ((s.filt[ch]).set i st) }

/-- Write every stage of channel `ch`. -/
def setChannel (s : State) (ch : Chan) (f : Vector Stage 16) : State :=
  { s with filt := s.filt.set ch f }

/-- The state of buffer `b`. -/
def bufOf (s : State) (b : Idx) : Buffer := s.bufs[b]

/-- Write the state of buffer `b`. -/
def setBuf (s : State) (b : Idx) (x : Buffer) : State := { s with bufs := s.bufs.set b x }

/-- The parameters of buffer `b`. -/
def bufCfg (s : State) (b : Idx) : BufConfig := s.cfg.buf[b]

/-- The state of block `k`. -/
def blkOf (s : State) (k : Blk) : Block := s.blks[k]

/-- Write the state of block `k`. -/
def setBlk (s : State) (k : Blk) (x : Block) : State := { s with blks := s.blks.set k x }

/-- Write `unit_state[blk][u]`. -/
def setUnit (s : State) (x : UnitId) (v : UnitState) : State :=
  setBlk s x.blk { blkOf s x.blk with unitState := (blkOf s x.blk).unitState.set x.u v }

/-- `table[blk][p]`. -/
def entryOf (s : State) (k : Blk) (p : Idx) : TableEntry := (blkOf s k).table[p]

/-! ## Command slots (10_state.md R45) -/

/-- The command outstanding in a slot, if any. -/
def slotOf (s : State) (p : Port) : Option Command :=
  match p.slot with
  | .T => (s.slots[p.core]).T
  | .H => (s.slots[p.core]).H

/-- One port's slots with one of them written. -/
def writeSlot (x : PortSlots) (σ : SlotId) (c : Option Command) : PortSlots :=
  match σ with
  | .T => { x with T := c }
  | .H => { x with H := c }

/-- Write a slot. -/
def setSlot (s : State) (p : Port) (c : Option Command) : State :=
  { s with slots := s.slots.set p.core (writeSlot s.slots[p.core] p.slot c) }

/-- A core presents a command: only an empty slot takes it (R45). On an occupied slot nothing happens
(log 16). -/
def presentCommand (p : Port) (c : Command) (s : State) : State :=
  match slotOf s p with
  | none => setSlot s p (some c)
  | some _ => s

/-! ## Responding (30_encoding.md R93) -/

/-- The command about to be executed comes from slot `p` (R90). -/
def setIssuer (p : Port) (s : State) : State := { s with issuer := p }

/-- Deliver a response to slot `p` and empty the slot. -/
def respondTo (p : Port) (st : Status) (rdata : Word) (s : State) : State :=
  { setSlot s p none with trace := s.trace ++ [⟨p, st, rdata⟩] }

/-- Respond OK with `rdata` to the command being executed. -/
def respondOk (rdata : Word) (s : State) : State := respondTo s.issuer .ok rdata s

/-- Respond with a status other than OK to the command being executed: `rdata` is 0 and nothing else
changes (00_scope.md R7, 30_encoding.md R93). -/
def refuse (st : Status) (s : State) : State := respondTo s.issuer st 0 s

/-- The first check of every command but `CSR.RD`: in HALT it is answered HALTED and changes nothing
(60_exceptions.md R236 (a), R242). -/
def unlessHalted (s : State) (k : Host.Outcome State Fault Refusal) : Host.Outcome State Fault Refusal :=
  if s.halt then .next (refuse .halted s) else k

/-! ## Fatal errors: the entry into HALT (60_exceptions.md R230, R235) -/

/-- The three fatal errors (R230). -/
inductive FatalError where
  | resourceExhausted
  | deadlock
  | transferInitFailure
deriving DecidableEq, Repr

/-- The status a fatal error is answered with (30_encoding.md R96); its code is what `err_code` records
(R230). -/
def fatalStatus : FatalError → Status
  | .resourceExhausted => .resourceExhausted
  | .deadlock => .deadlock
  | .transferInitFailure => .transferInitFailure

/-- HALT entered and the error recorded (R235). -/
def recordFatal (e : FatalError) (c : Core) (s : State) : State :=
  { s with halt := true, errCode := statusCode (fatalStatus e), errCore := c }

/-- `raise E(core = p.core)` on behalf of the command in slot `p`: the first fatal error is recorded and
PDB is in HALT (R235). Nothing is vectored and nothing else is saved. There is no return (R237): the
reset input is the only exit (70_reset_and_hazards.md R262). Commands outstanding on other slots are
answered HALTED when they are served (R236 (b); log 5). -/
def raiseFatal (e : FatalError) (p : Port) (s : State) : State :=
  respondTo p (fatalStatus e) 0 (if s.halt then s else recordFatal e p.core s)

/-- The reset input (70_reset_and_hazards.md R260): every piece of the spec's state takes its reset value.
What belongs to the outside world goes on: the configuration, the events to come, the responses already
delivered, and the count of resets (log 14). -/
def resetInput (s : State) : State :=
  { State.resetWith s.cfg with
    agenda := s.agenda, envPos := s.envPos, trace := s.trace, era := s.era + 1 }

/-! ## Ring arrays (00_scope.md R7) -/

/-- The word listed at index `i`, if any. -/
def Memory.read : Memory → Nat → Option Word
  | [], _ => none
  | (a, v) :: rest, i => if a = i then some v else Memory.read rest i

/-- Store a word at index `i`, keeping the indices strictly rising. -/
def Memory.write : Memory → Nat → Word → Memory
  | [], i, w => [(i, w)]
  | (a, v) :: rest, i, w =>
    if i < a then (i, w) :: (a, v) :: rest
    else if i = a then (i, w) :: rest
    else (a, v) :: Memory.write rest i w

/-- The index lies above the bound, if there is one. -/
def Memory.above (lo : Option Nat) (i : Nat) : Bool :=
  match lo with
  | none => true
  | some l => decide (l < i)

/-- The indices rise strictly from above `lo`. -/
def Memory.risingFrom : Option Nat → Memory → Bool
  | _, [] => true
  | lo, (a, _) :: rest => Memory.above lo a && Memory.risingFrom (some a) rest

/-- The canonical form: indices strictly rising. An unlisted index holds no value, so no listed entry
can equal it. -/
def Memory.wf (m : Memory) : Bool := Memory.risingFrom none m

/-- `MemRead(b, i)`. -/
def memRead (c : BufConfig) (m : Memory) (i : Nat) : Except Fault Word :=
  if i < c.n then
    match Memory.read m i with
    | some v => .ok v
    | none => .error .unwrittenWord
  else .error .ringIndex

/-- `MemWrite(b, i, v)`. -/
def memWrite (c : BufConfig) (m : Memory) (i : Nat) (v : Word) : Except Fault Memory :=
  if i < c.n then .ok (Memory.write m i v) else .error .ringIndex

/-- The array index of the next enqueue: head mod N (20_memory.md R61). -/
def headIndex (c : BufConfig) (b : Buffer) : Nat := b.head % c.n

/-- The array index of the next dequeue: tail mod N (20_memory.md R61). -/
def tailIndex (c : BufConfig) (b : Buffer) : Nat := b.tail % c.n

/-- An index one further, modulo 2·N (10_state.md R31). -/
def advance (c : BufConfig) (i : Nat) : Nat := (i + 1) % (2 * c.n)

/-- `Enqueue(b, v)`, defined only when free ≥ 1 (43_ringbuffer.md R171). -/
def enqueue (c : BufConfig) (b : Buffer) (v : Word) : Except Fault Buffer :=
  if freeWords c b = 0 then .error .enqueueFull
  else
    match memWrite c b.mem (headIndex c b) v with
    | .error f => .error f
    | .ok m => .ok { b with mem := m, head := advance c b.head }

/-- `Dequeue(b)`, defined only when fill ≥ 1 (43_ringbuffer.md R172). -/
def dequeue (c : BufConfig) (b : Buffer) : Except Fault (Word × Buffer) :=
  if fill c b = 0 then .error .dequeueEmpty
  else
    match memRead c b.mem (tailIndex c b) with
    | .error f => .error f
    | .ok v => .ok (v, { b with tail := advance c b.tail })

/-- Enqueue on behalf of the command being executed and respond OK (43_ringbuffer.md R175, R176). -/
def enqueueRespond (i : Idx) (w : Word) (s : State) : Host.Outcome State Fault Refusal :=
  match enqueue (bufCfg s i) (bufOf s i) w with
  | .error f => .fault f
  | .ok b => .next (respondOk 0 (setBuf s i b))

/-- Dequeue on behalf of the command being executed and respond OK with the word (43_ringbuffer.md R177,
R178). -/
def dequeueRespond (i : Idx) (s : State) : Host.Outcome State Fault Refusal :=
  match dequeue (bufCfg s i) (bufOf s i) with
  | .error f => .fault f
  | .ok (v, b) => .next (respondOk v (setBuf s i b))

/-! ## The wire (10_state.md R36) -/

/-- `wire_in[b][k]`: what the environment has fixed, and beyond that a free value (log 7). -/
def wireInWord (s : State) (b : Idx) (k : Nat) : Word :=
  match (bufOf s b).wireIn[k]? with
  | some w => w
  | none => Config.wireWord s.era b k

/-! ## The schedule -/

/-- The schedule of what is to come. -/
def setSchedule (agenda : List Event) (envPos : Nat) (s : State) : State :=
  { s with agenda := agenda, envPos := envPos }

/-- The event that happens next, and the state with it taken: the head of the agenda, or a free value
when the agenda is empty (log 2). -/
def nextEvent (s : State) : Event × State :=
  match s.agenda with
  | e :: rest => (e, setSchedule rest s.envPos s)
  | [] => (Config.envEvent s.envPos, setSchedule [] (s.envPos + 1) s)

end Sys2Proof.Machine
end

