-- ==== Sys2Proof/Machine/Align.lean ====
section
/-! DEFINITION. AL.IN and AL.OUT: the width alignment of the wire contract (44_sync_and_loop.md R205 to
R207). -/

namespace Sys2Proof.Machine

/-- The aligned sample of a received word: an arithmetic right shift by IN_SHIFT (R205). -/
def alignIn (c : Config) (w : Word) : Word := wrap 32 (asr (s32 w) c.inShift)

/-- The word to transmit for a processed sample: a left shift by OUT_SHIFT that loses the bits shifted
out (R206). -/
def alignOut (c : Config) (v : Word) : Word := wrap 32 (s32 v * 2 ^ c.outShift)

/-- AL.IN #w (R205). -/
def execAlIn (w : Word) (s : State) : Host.Outcome State Fault Refusal :=
  unlessHalted s (.next (respondOk (alignIn s.cfg w) s))

/-- AL.OUT #v (R206). -/
def execAlOut (v : Word) (s : State) : Host.Outcome State Fault Refusal :=
  unlessHalted s (.next (respondOk (alignOut s.cfg v) s))

end Sys2Proof.Machine
end

