-- ==== Sys2Proof/Machine/Arbiter.lean ====
section
/-! DEFINITION. ARB.CLAIM and the arbitrator's steps SCAN, LOAD, RECORD (42_arbitrator.md R150 to
R160). -/

namespace Sys2Proof.Machine

/-- Take the lock for the claim of slot `p` (R152). -/
def acceptClaim (p : Port) (prog : Idx) (len : BitVec 8) (s : State) : State :=
  { s with lock := ⟨true, p.core⟩, arbReq := ⟨p, prog, len⟩, arbState := .scan }

/-- ARB.CLAIM p, len (R151), its acceptance (R152): taken when the lock is free, fatal Deadlock when the
same core holds the lock, held while the other core holds it. A held claim goes through all three branches
again at each later service, so that it too raises Deadlock where the other slot of its own core has meanwhile
been accepted (DESIGN CHOICE, log 25). -/
def execArbClaim (p : BitVec 4) (len : BitVec 8) (s : State) : Host.Outcome State Fault Refusal :=
  unlessHalted s <|
    match selProg s.cfg p with
    | some prog =>
      if lenOk s.cfg len then
        if s.lock.held = false then .next (acceptClaim s.issuer prog len s)
        else if s.lock.owner = s.issuer.core then .next (raiseFatal .deadlock s.issuer s)
        else .next s
      else .next (refuse .badsel s)
    | none => .next (refuse .badsel s)

/-- Move the arbitrator to state `st` with selection latches `sel`. -/
def setArb (st : ArbState) (sel : ArbSel) (s : State) : State := { s with arbState := st, arbSel := sel }

/-- Release the lock and return the arbitrator to IDLE (R153 to R155); `owner` and the latches keep their
last values (log 11). -/
def releaseLock (s : State) : State :=
  { s with lock := { s.lock with held := false }, arbState := .idle }

/-- End the claim in progress with ResourceExhausted (R153, R154, R159). -/
def failClaim (s : State) : State := raiseFatal .resourceExhausted s.arbReq.port (releaseLock s)

/-- The unit a claim gets: the first FREE one in scan order (R153). -/
def firstFree (s : State) : Option UnitId :=
  (allUnits s.cfg).find? (fun x => decide (unitStateOf s x = .free))

/-- SCAN (R153). -/
def arbScan (s : State) : State :=
  match firstFree s with
  | none => failClaim s
  | some x => setArb .load { s.arbSel with unit := x } s

/-- A block with `len` more instruction-memory words occupied and one more load counted (R154). -/
def loadProgram (k : Block) (len : BitVec 8) : Block :=
  { k with imemUsed := k.imemUsed + len.toNat, loadCount := k.loadCount + 1 }

/-- LOAD (R154): a resident program is not loaded again; otherwise it is placed at the lowest free word;
if it does not fit the claim fails. -/
def arbLoad (s : State) : State :=
  let blk := s.arbSel.unit.blk
  let e := entryOf s blk s.arbReq.p
  let k := blkOf s blk
  if e.valid then setArb .record { s.arbSel with offset := e.offset } s
  else if k.imemUsed + s.arbReq.len.toNat ≤ s.cfg.m then
    setArb .record { s.arbSel with offset := BitVec.ofNat 8 k.imemUsed } (setBlk s blk (loadProgram k s.arbReq.len))
  else failClaim s

/-- The table entry that RECORD leaves for the claimed program: an entry already valid is kept (R155). -/
def recordEntry (e : TableEntry) (offset len : BitVec 8) : TableEntry :=
  if e.valid then e else ⟨true, offset, len⟩

/-- The block that RECORD leaves: the entry recorded and the unit CLAIMED (R155). -/
def recordBlock (k : Block) (p u : Idx) (offset len : BitVec 8) : Block :=
  { k with
    table := k.table.set p (recordEntry k.table[p] offset len)
    unitState := k.unitState.set u .claimed }

/-- RECORD (R155). -/
def arbRecord (s : State) : State :=
  let x := s.arbSel.unit
  let k := recordBlock (blkOf s x.blk) s.arbReq.p x.u s.arbSel.offset s.arbReq.len
  respondTo s.arbReq.port .ok (packClaim s.arbSel) (releaseLock (setBlk s x.blk k))

/-- The step of agent ARB: enabled in SCAN, LOAD and RECORD while `halt` = 0 (R153 to R155, 60_exceptions.md
R236 (c)); otherwise nothing happens. -/
def arbStep (s : State) : State :=
  if s.halt then s
  else
    match s.arbState with
    | .idle => s
    | .scan => arbScan s
    | .load => arbLoad s
    | .record => arbRecord s

end Sys2Proof.Machine
end

