-- ==== Sys2Proof/Machine/Coefficients.lean ====
section
/-! DEFINITION. BQ.LDC and BQ.RDS: writing a coefficient and reading a register of a stage
(40_coefficients.md R123 to R125). -/

namespace Sys2Proof.Machine

/-- A stage with coefficient `k` written and marked valid (R123). -/
def loadCoef (st : Stage) (k : Fin 5) (coef : Word) : Stage :=
  { st with coef := st.coef.set k coef, cval := st.cval.set k true }

/-- The value of a register of a stage as `BQ.RDS` reads it (R125): none for a coefficient that was never
loaded; `x2` and `y2` read 0 when DEPTH = 1. -/
def readStageReg (c : Config) (st : Stage) : StageReg → Option Word
  | .coef k => if st.cval[k] then some st.coef[k] else none
  | .x1 => some st.x1
  | .x2 => some (if c.depth = .two then st.x2 else 0)
  | .y1 => some st.y1
  | .y2 => some (if c.depth = .two then st.y2 else 0)
  | .rem => some (BitVec.ofNat 32 st.rem)

/-- BQ.LDC ch, s, k, #coef (R123): allowed only before the first SYNC.ARM (R124). -/
def execBqLdc (ch st : BitVec 4) (k : BitVec 3) (coef : Word) (s : State) : Host.Outcome State Fault Refusal :=
  unlessHalted s <|
    match selChan ch, selCoef k with
    | some ch', some k' =>
      match selStage s.cfg ch' st with
      | some i =>
        if s.armed then .next (refuse .badstate s)
        else .next (respondOk 0 (setStage s ch' i (loadCoef (stageOf s ch' i) k' coef)))
      | none => .next (refuse .badsel s)
    | _, _ => .next (refuse .badsel s)

/-- BQ.RDS ch, s, r (R125): allowed whether or not armed; changes no register. -/
def execBqRds (ch st r : BitVec 4) (s : State) : Host.Outcome State Fault Refusal :=
  unlessHalted s <|
    match selChan ch, selReg r with
    | some ch', some r' =>
      match selStage s.cfg ch' st with
      | some i =>
        match readStageReg s.cfg (stageOf s ch' i) r' with
        | some v => .next (respondOk v s)
        | none => .next (refuse .badstate s)
      | none => .next (refuse .badsel s)
    | _, _ => .next (refuse .badsel s)

end Sys2Proof.Machine
end

