-- ==== Sys2Proof/Machine/Filter.lean ====
section
/-! DEFINITION. BQ.STEP and BQ.CHAIN: the IIR filter stage and the chain of a channel
(41_iir_filter.md R130 to R141). -/

namespace Sys2Proof.Machine

/-! ## One stage -/

/-- FF of R131: feed-forward coefficients on the present and past inputs. -/
def feedForward (c : Config) (st : Stage) (x : Word) : Int :=
  s32 st.coef[0] * s32 x + s32 st.coef[1] * s32 st.x1 +
    (if c.depth = .two then s32 st.coef[2] * s32 st.x2 else 0)

/-- FB of R131: feedback coefficients on the past outputs. -/
def feedBack (c : Config) (st : Stage) : Int :=
  s32 st.coef[3] * s32 st.y1 + (if c.depth = .two then s32 st.coef[4] * s32 st.y2 else 0)

/-- The exact sum S of R131, over unbounded integers. The remainder is the stage's own (90_conflicts.md
C1). -/
def stageSum (c : Config) (st : Stage) (x : Word) : Int :=
  (st.rem : Int) + feedForward c st x + c.fbSign.toInt * feedBack c st

/-- The accumulator value A = s_64(wrap_64(S)) (R133, R135). -/
def accValue (sum : Int) : Int := (wrap 64 sum).toInt

/-- The new remainder: the low Q bits of the accumulator (R134). -/
def newRem (c : Config) (acc : Int) : Nat := low acc c.q

/-- The new output: bits Q+31 down to Q of the accumulator (R136). -/
def newOutput (c : Config) (acc : Int) : Word := wrap 32 (asr acc c.q)

/-- The history after a step with input `x` and output `y` (R139): with DEPTH = 1 only `x1` and `y1` are
written. -/
def shiftHistory (c : Config) (st : Stage) (x y : Word) : Stage :=
  { st with
    x2 := if c.depth = .two then st.x1 else st.x2
    y2 := if c.depth = .two then st.y1 else st.y2
    x1 := x
    y1 := y }

/-- One sample through one stage (R137): the stage after, and the output. Every right-hand side reads the
stage before. -/
def stageStep (c : Config) (st : Stage) (x : Word) : Stage × Word :=
  let acc := accValue (stageSum c st x)
  let y := newOutput c acc
  ({ shiftHistory c st x y with rem := newRem c acc }, y)

/-! ## The chain -/

/-- One sample through the listed stages of a channel, in order (R140). -/
def chainRun (c : Config) (f : Vector Stage 16) (is : List Idx) (v : Word) : Vector Stage 16 × Word :=
  match is with
  | [] => (f, v)
  | i :: rest =>
    let r := stageStep c f[i] v
    chainRun c (f.set i r.1) rest r.2

/-! ## The commands -/

/-- BQ.STEP ch, s, #x (R137): BADSTATE on a stage that is not loaded (R138). -/
def execBqStep (ch st : BitVec 4) (x : Word) (s : State) : Host.Outcome State Fault Refusal :=
  unlessHalted s <|
    match selChan ch with
    | some ch' =>
      match selStage s.cfg ch' st with
      | some i =>
        if loaded (stageOf s ch' i) then
          let r := stageStep s.cfg (stageOf s ch' i) x
          .next (respondOk r.2 (setStage s ch' i r.1))
        else .next (refuse .badstate s)
      | none => .next (refuse .badsel s)
    | none => .next (refuse .badsel s)

/-- BQ.CHAIN ch, #x (R140): BADSTATE, and no stage touched, if some stage of the chain is not loaded; an
empty chain returns its input (R141). -/
def execBqChain (ch : BitVec 4) (x : Word) (s : State) : Host.Outcome State Fault Refusal :=
  unlessHalted s <|
    match selChan ch with
    | some ch' =>
      if chainLoaded s ch' then
        let r := chainRun s.cfg (s.filt[ch']) (below s.cfg.nSt[ch']) x
        .next (respondOk r.2 (setChannel s ch' r.1))
      else .next (refuse .badstate s)
    | none => .next (refuse .badsel s)

end Sys2Proof.Machine
end

