-- ==== Sys2Proof/Machine/Ring.lean ====
section
/-! DEFINITION. The foreground side of the ring buffers: RB.WR, RB.WRB, RB.RD, RB.RDB, RB.BEGIN, RB.ACK
(43_ringbuffer.md R174 to R184, R190). -/

namespace Sys2Proof.Machine

/-- RB.WR b, #w (R175): on an OUT buffer only (R174); FULL on a full buffer. -/
def execRbWr (b : BitVec 4) (w : Word) (s : State) : Host.Outcome State Fault Refusal :=
  unlessHalted s <|
    match selBuf s.cfg b with
    | some i =>
      if (bufCfg s i).dir ≠ .output then .next (refuse .badstate s)
      else if freeWords (bufCfg s i) (bufOf s i) = 0 then .next (refuse .full s)
      else enqueueRespond i w s
    | none => .next (refuse .badsel s)

/-- RB.WRB b, #w (R176): as RB.WR, but held on a full buffer: the command stays in its slot and nothing
changes (R179). -/
def execRbWrb (b : BitVec 4) (w : Word) (s : State) : Host.Outcome State Fault Refusal :=
  unlessHalted s <|
    match selBuf s.cfg b with
    | some i =>
      if (bufCfg s i).dir ≠ .output then .next (refuse .badstate s)
      else if freeWords (bufCfg s i) (bufOf s i) = 0 then .next s
      else enqueueRespond i w s
    | none => .next (refuse .badsel s)

/-- RB.RD b (R177): on an IN buffer only (R174); EMPTY on an empty buffer. -/
def execRbRd (b : BitVec 4) (s : State) : Host.Outcome State Fault Refusal :=
  unlessHalted s <|
    match selBuf s.cfg b with
    | some i =>
      if (bufCfg s i).dir ≠ .input then .next (refuse .badstate s)
      else if fill (bufCfg s i) (bufOf s i) = 0 then .next (refuse .empty s)
      else dequeueRespond i s
    | none => .next (refuse .badsel s)

/-- RB.RDB b (R178): as RB.RD, but held on an empty buffer (R179). -/
def execRbRdb (b : BitVec 4) (s : State) : Host.Outcome State Fault Refusal :=
  unlessHalted s <|
    match selBuf s.cfg b with
    | some i =>
      if (bufCfg s i).dir ≠ .input then .next (refuse .badstate s)
      else if fill (bufCfg s i) (bufOf s i) = 0 then .next s
      else dequeueRespond i s
    | none => .next (refuse .badsel s)

/-- A buffer bound to its engine by core `c` (R182). -/
def bindBuffer (b : Buffer) (x : UnitId) (a : Word) (cb : Bool) (c : Core) : Buffer :=
  { b with bound := true, trig := x, fifoAddr := a, cbEn := cb, irqCore := c }

/-- RB.BEGIN b, tblk, tu, cb, #fifo_addr (R182): binds the buffer, or raises TransferInitFailure. -/
def execRbBegin (b tblk tu : BitVec 4) (cb : Bool) (fifoAddr : Word) (s : State) :
    Host.Outcome State Fault Refusal :=
  unlessHalted s <|
    match selBuf s.cfg b, selUnit s.cfg tblk tu with
    | some i, some x =>
      if beginFails s i x fifoAddr then .next (raiseFatal .transferInitFailure s.issuer s)
      else .next (respondOk 0 (setBuf s i (bindBuffer (bufOf s i) x fifoAddr cb s.issuer.core)))
    | _, _ => .next (refuse .badsel s)

/-- RB.ACK b (R190): clears `irq_pend[b]`. -/
def execRbAck (b : BitVec 4) (s : State) : Host.Outcome State Fault Refusal :=
  unlessHalted s <|
    match selBuf s.cfg b with
    | some i => .next (respondOk 0 (setBuf s i { bufOf s i with irqPend := false }))
    | none => .next (refuse .badsel s)

end Sys2Proof.Machine
end

