-- ==== Sys2Proof/Machine/Sync.lean ====
section
/-! DEFINITION. SEQ.EN and SYNC.ARM: the synchronized start (44_sync_and_loop.md R200 to R204). -/

namespace Sys2Proof.Machine

/-- SEQ.EN blk, u (R201): CLAIMED to WAITING; the issuing core is not checked. -/
def execSeqEn (blk u : BitVec 4) (s : State) : Host.Outcome State Fault Refusal :=
  unlessHalted s <|
    match selUnit s.cfg blk u with
    | some x =>
      if unitStateOf s x = .claimed then .next (respondOk 0 (setUnit s x .waiting))
      else .next (refuse .badstate s)
    | none => .next (refuse .badsel s)

/-- How many units are WAITING (R203). -/
def waitingCount (s : State) : Nat :=
  ((allUnits s.cfg).filter (fun x => decide (unitStateOf s x = .waiting))).length

/-- A block with every WAITING unit RUNNING (R203). -/
def startUnits (c : Config) (k : Block) : Block :=
  { k with
    unitState := Vector.ofFn fun i : Fin 16 =>
      if i.val < c.u ∧ k.unitState[i] = .waiting then .running else k.unitState[i] }

/-- All WAITING units of both blocks started at once, and the gate armed (R203). -/
def startAll (s : State) : State :=
  { s with blks := Vector.ofFn fun k : Fin 2 => startUnits s.cfg s.blks[k], armed := true }

/-- SYNC.ARM (R203). -/
def execSyncArm (s : State) : Host.Outcome State Fault Refusal :=
  unlessHalted s (.next (respondOk (BitVec.ofNat 32 (waitingCount s)) (startAll s)))

end Sys2Proof.Machine
end

