-- ==== Sys2Proof/Machine/System.lean ====
section
/-! DEFINITION. CSR.RD and the value of every CSR (45_system.md R220 to R225). -/

namespace Sys2Proof.Machine

/-- SYS_STATUS (R221). -/
def csrSysStatus (s : State) : Word :=
  packWordOf [packBit 0 s.halt, packField 8 8 s.errCode.toNat, packField 16 1 s.errCore.val]

/-- LOCK (R221): OWNER reads 0 while the lock is not held. -/
def csrLock (s : State) : Word :=
  packWordOf [packBit 0 s.lock.held, packField 1 1 (if s.lock.held then s.lock.owner.val else 0)]

/-- UNIT_STATE[blk] (R222): two bits per existing unit. -/
def csrUnitState (s : State) (k : Blk) : Word :=
  packWordOf ((below s.cfg.u).map (fun u => packField (2 * u.val) 2 (unitCode (unitStateOf s ⟨k, u⟩))))

/-- TABLE[blk][p] (R222). -/
def csrTable (e : TableEntry) : Word :=
  packWordOf [packBit 31 e.valid, packField 8 8 e.len.toNat, packField 0 8 e.offset.toNat]

/-- RB_STATUS[b] (R223). -/
def csrRbStatus (c : BufConfig) (b : Buffer) : Word :=
  packWordOf
    [packBit 0 b.bound, packField 1 1 (dirCode c.dir), packBit 2 b.irqPend, packBit 3 b.overrun,
     packBit 4 b.underrun, packBit 5 b.cbEn, packField 6 1 b.irqCore.val, packBit 7 b.latch,
     packField 8 4 b.phase]

/-- RB_TRIG[b] (R223). -/
def csrRbTrig (b : Buffer) : Word :=
  packWordOf [packField 0 4 b.trig.u.val, packField 4 4 b.trig.blk.val, packField 16 16 b.ucount]

/-- The 32-bit value of a CSR in the present state (R221 to R223). -/
def csrValue (s : State) : Csr → Word
  | .sysStatus => csrSysStatus s
  | .lock => csrLock s
  | .arbState => packWordOf [packField 0 2 (arbCode s.arbState)]
  | .sync => packWordOf [packBit 0 s.armed]
  | .unitState k => csrUnitState s k
  | .imemUsed k => packWordOf [packField 0 8 (blkOf s k).imemUsed]
  | .loadCount k => (blkOf s k).loadCount
  | .table k p => csrTable (entryOf s k p)
  | .rbStatus b => csrRbStatus (bufCfg s b) (bufOf s b)
  | .rbHead b => packWordOf [packField 0 16 (bufOf s b).head]
  | .rbTail b => packWordOf [packField 0 16 (bufOf s b).tail]
  | .rbFill b => packWordOf [packField 0 16 (fill (bufCfg s b) (bufOf s b))]
  | .rbUnits b => (bufOf s b).units
  | .rbDrops b => (bufOf s b).drops
  | .rbFifoAddr b => (bufOf s b).fifoAddr
  | .rbTrig b => csrRbTrig (bufOf s b)

/-- CSR.RD csr (R220): executed in HALT too (60_exceptions.md R236 (a)); changes no register. -/
def execCsrRd (csr : BitVec 12) (s : State) : Host.Outcome State Fault Refusal :=
  match selCsr s.cfg csr with
  | some r => .next (respondOk (csrValue s r) s)
  | none => .next (refuse .badsel s)

end Sys2Proof.Machine
end

