-- ==== Sys2Proof/Machine/Dispatch.lean ====
section
/-! DEFINITION. The meaning of each command: one arm per constructor of `Instr`. -/

namespace Sys2Proof.Machine

-- The execution of one legal command on behalf of `s.issuer` (30_encoding.md R100).
def exec (i : Instr) (s : State) : Host.Outcome State Fault Refusal :=
  match i with
  | .bqLdc ch st k coef => Sys2Proof.Machine.execBqLdc ch st k coef s
  | .bqRds ch st r => Sys2Proof.Machine.execBqRds ch st r s
  | .bqStep ch st x => Sys2Proof.Machine.execBqStep ch st x s
  | .bqChain ch x => Sys2Proof.Machine.execBqChain ch x s
  | .alIn w => Sys2Proof.Machine.execAlIn w s
  | .alOut v => Sys2Proof.Machine.execAlOut v s
  | .rbWr b w => Sys2Proof.Machine.execRbWr b w s
  | .rbWrb b w => Sys2Proof.Machine.execRbWrb b w s
  | .rbRd b => Sys2Proof.Machine.execRbRd b s
  | .rbRdb b => Sys2Proof.Machine.execRbRdb b s
  | .rbBegin b tblk tu cb fifoAddr => Sys2Proof.Machine.execRbBegin b tblk tu cb fifoAddr s
  | .rbAck b => Sys2Proof.Machine.execRbAck b s
  | .arbClaim p len => Sys2Proof.Machine.execArbClaim p len s
  | .seqEn blk u => Sys2Proof.Machine.execSeqEn blk u s
  | .syncArm => Sys2Proof.Machine.execSyncArm s
  | .csrRd csr => Sys2Proof.Machine.execCsrRd csr s

end Sys2Proof.Machine
end

