-- ==== Sys2Proof/Machine/Engine.lean ====
section
/-! DEFINITION. The transfer engines: the steps of `XFER[b]` (43_ringbuffer.md R185 to R188). -/

namespace Sys2Proof.Machine

/-- `CountUnit(b)` (R188). -/
def countUnit (c : BufConfig) (b : Buffer) : Buffer :=
  if b.ucount + 1 = c.xferUnit then { b with ucount := 0, units := b.units + 1, irqPend := true }
  else { b with ucount := b.ucount + 1 }

/-- The phase after a word: (phase + 1) mod N_CH. -/
def nextPhase (b : Buffer) : Nat := (b.phase + 1) % Config.nCh

/-- The decision of an IN engine at the first word of a frame: accept the frame if there is room for all
of it, else drop it, counted and flagged (R186). -/
def decideIn (c : BufConfig) (b : Buffer) : Buffer :=
  if b.phase = 0 then
    if Config.nCh ≤ freeWords c b then { b with latch := true }
    else { b with latch := false, overrun := true, drops := b.drops + 1 }
  else b

/-- The decision of an OUT engine at the first word of a frame: take the frame if the ring holds all of
it, else send silence, counted and flagged (R187). -/
def decideOut (c : BufConfig) (b : Buffer) : Buffer :=
  if b.phase = 0 then
    if Config.nCh ≤ fill c b then { b with latch := true }
    else { b with latch := false, underrun := true, drops := b.drops + 1 }
  else b

/-- One step of an IN engine on the wire word `w` (R186). -/
def engineIn (c : BufConfig) (b : Buffer) (w : Word) : Except Fault Buffer :=
  let b1 := decideIn c { b with winPos := b.winPos + 1 }
  match (if b1.latch then enqueue c b1 w else .ok b1) with
  | .error f => .error f
  | .ok b2 => .ok (countUnit c { b2 with phase := nextPhase b2 })

/-- One step of an OUT engine (R187). -/
def engineOut (c : BufConfig) (b : Buffer) : Except Fault Buffer :=
  let b1 := decideOut c b
  match (if b1.latch then dequeue c b1 else .ok (Config.silence, b1)) with
  | .error f => .error f
  | .ok (w, b2) => .ok (countUnit c { b2 with wireOut := b2.wireOut ++ [w], phase := nextPhase b2 })

/-- The step of `XFER[b]`: nothing happens when it is not enabled (R185). -/
def xferStep (b : Idx) (s : State) : Host.Outcome State Fault Refusal :=
  if xferEnabled s b then
    match (match (bufCfg s b).dir with
      | .input => engineIn (bufCfg s b) (bufOf s b) (wireInWord s b (bufOf s b).winPos)
      | .output => engineOut (bufCfg s b) (bufOf s b)) with
    | .error f => .fault f
    | .ok x => .next (setBuf s b x)
  else .next s

end Sys2Proof.Machine
end

