-- ==== Sys2Proof/Machine/Serve.lean ====
section
/-! DEFINITION. One event of the machine: serving a slot (decoding and executing its command), a step of
an agent, a presentation, the reset input (00_scope.md R8, R9; 60_exceptions.md R242). -/

namespace Sys2Proof.Machine

/-- Execute the command words `c` on behalf of `s.issuer`: a word that is no legal command is answered
HALTED in HALT and ILLEGAL otherwise, and changes nothing else (30_encoding.md R97, R98; 60_exceptions.md
R242). -/
def executeCommand (c : Command) (s : State) : Host.Outcome State Fault Refusal :=
  match decode c.cw c.data with
  | .ok i => exec i s
  | .error _ => .next (refuse (if s.halt then .halted else .illegal) s)

/-- Serve slot `p`: execute, or try again, the command outstanding there (70_reset_and_hazards.md R270). An
empty slot has nothing to serve; a claim in progress waits for the arbitrator, until HALT answers it
(60_exceptions.md R236 (b); log 21). -/
def serve (p : Port) (s : State) : Host.Outcome State Fault Refusal :=
  match slotOf s p with
  | none => .next s
  | some c =>
    if claimInProgress s p && !s.halt then .next s
    else executeCommand c (setIssuer p s)

/-- One event. -/
def runEvent (e : Event) (s : State) : Host.Outcome State Fault Refusal :=
  match e with
  | .reset => .next (resetInput s)
  | .present p c => .next (presentCommand p c s)
  | .serve p => serve p s
  | .arb => .next (arbStep s)
  | .xfer b => xferStep b s

/-- A slot whose next service executes what it holds, whatever the arbitrator is doing: the thread slot of
core 0, or its handler slot while the claim in progress came from the thread slot (log 22). -/
def fetchPort (s : State) : Port :=
  if claimInProgress s ⟨0, .T⟩ then ⟨0, .H⟩ else ⟨0, .T⟩

/-- `s` with command `c` outstanding and about to be served. -/
def withCommand (c : Command) (s : State) : State :=
  setSchedule (.serve (fetchPort s) :: s.agenda) s.envPos (setSlot s (fetchPort s) (some c))

end Sys2Proof.Machine
end

