-- ==== Sys2Proof/Machine/Step.lean ====
section
/-! DEFINITION. One step of PDB: the next event, run. -/

namespace Sys2Proof.Machine

/-- One transition of the total order (00_scope.md R8, 20_memory.md R71). -/
def step (s : State) : Host.Outcome State Fault Refusal :=
  runEvent (nextEvent s).1 (nextEvent s).2

/-- `s` with the instruction of the table word `w` outstanding in a command slot and that slot served
next: the next step executes exactly it (log 3). The command word is bits 31:0, the data word bits
63:32. -/
def State.withFetchWord (s : State) (nbits w : Nat) : State := withCommand (tableCommand nbits w) s

end Sys2Proof.Machine
end

