-- ==== Sys2Proof/Machine/Software.lean ====
section
/-! DEFINITION. The command sequences the spec gives by name: the pseudo-commands (30_encoding.md R102) and
one iteration of the real-time loop (44_sync_and_loop.md R210). They are software: each command is issued
after the response of the one before, and nothing here is a step of PDB. -/

namespace Sys2Proof.Machine

/-- The commands a pseudo-command abbreviates (R102). -/
def expandPseudo (c : Config) : Pseudo → List Instr
  | .ldall ch st b0 b1 b2 a1 a2 =>
    [.bqLdc ch st 0 b0, .bqLdc ch st 1 b1, .bqLdc ch st 2 b2, .bqLdc ch st 3 a1, .bqLdc ch st 4 a2]
  | .ident ch st =>
    [.bqLdc ch st 0 (BitVec.ofNat 32 (2 ^ c.q)), .bqLdc ch st 1 0, .bqLdc ch st 2 0, .bqLdc ch st 3 0,
     .bqLdc ch st 4 0]
  | .rdf b => [.rbRdb b, .rbRdb b]
  | .wrf b l r => [.rbWrb b l, .rbWrb b r]

/-- Command number `k` of one loop iteration, given the `rdata` of the commands before it, with input
buffer `bi` and output buffer `bo`: read a frame, align it, filter each channel, align back, write the
frame (R210). -/
def loopCommand (bi bo : BitVec 4) (results : List Word) (k : Nat) : Option Instr :=
  let r (j : Nat) : Word := results[j]?.getD 0
  match k with
  | 0 => some (.rbRdb bi)
  | 1 => some (.rbRdb bi)
  | 2 => some (.alIn (r 0))
  | 3 => some (.alIn (r 1))
  | 4 => some (.bqChain 0 (r 2))
  | 5 => some (.bqChain 1 (r 3))
  | 6 => some (.alOut (r 4))
  | 7 => some (.alOut (r 5))
  | 8 => some (.rbWrb bo (r 6))
  | 9 => some (.rbWrb bo (r 7))
  | _ => none

end Sys2Proof.Machine
end

