-- ==== Sys2Proof/Safety.lean ====
section
/-! DEFINITION. The terms in which claims about PDB are stated: what is observed of a response, which part
of the state a transition leaves alone, the invariants of the reachable states, and the conditions the spec
puts on filter coefficients. -/

namespace Sys2Proof.Machine

/-! ## Responses and frames -/

/-- From `s` to `t` exactly one response was delivered, to slot `p`, and that slot is empty again
(30_encoding.md R93, 10_state.md R45). -/
def Answered (s t : State) (p : Port) (st : Status) (rdata : Word) : Prop :=
  slotOf t p = none ∧ t.trace = s.trace ++ [⟨p, st, rdata⟩]

/-- The parts of the state, for frames: every field of State is in one of them. -/
inductive Part where
  /-- All registers of a stage (10_state.md R20 to R24). -/
  | stage (ch : Chan) (i : Idx)
  /-- A ring buffer with its array, binding, flags, counters and wire (10_state.md R30 to R36). -/
  | buffer (b : Idx)
  /-- `unit_state` of one unit (10_state.md R41). -/
  | unit (x : UnitId)
  /-- One entry of `table` (10_state.md R37). -/
  | entry (k : Blk) (p : Idx)
  /-- `imem_used` and `load_count` of a block (10_state.md R38). -/
  | occupancy (k : Blk)
  /-- `lock` (10_state.md R40). -/
  | lock
  /-- `arb_state`, `arb_req`, `arb_sel` (10_state.md R42). -/
  | arbiter
  /-- `armed` (10_state.md R43). -/
  | armed
  /-- `halt`, `err_code`, `err_core` (10_state.md R44). -/
  | error
  /-- One command slot (10_state.md R45). -/
  | slot (p : Port)
  /-- The responses delivered. -/
  | trace
  /-- The model's own record of who issued the command. -/
  | issuer
  /-- `Config`. -/
  | config
  /-- The model's own schedule and reset count. -/
  | schedule
deriving DecidableEq, Repr

/-- The part reads the same in both states. -/
def unchanged (s t : State) : Part → Prop
  | .stage ch i => stageOf t ch i = stageOf s ch i
  | .buffer b => bufOf t b = bufOf s b
  | .unit x => unitStateOf t x = unitStateOf s x
  | .entry k p => entryOf t k p = entryOf s k p
  | .occupancy k => (blkOf t k).imemUsed = (blkOf s k).imemUsed ∧ (blkOf t k).loadCount = (blkOf s k).loadCount
  | .lock => t.lock = s.lock
  | .arbiter => t.arbState = s.arbState ∧ t.arbReq = s.arbReq ∧ t.arbSel = s.arbSel
  | .armed => t.armed = s.armed
  | .error => t.halt = s.halt ∧ t.errCode = s.errCode ∧ t.errCore = s.errCore
  | .slot p => slotOf t p = slotOf s p
  | .trace => t.trace = s.trace
  | .issuer => t.issuer = s.issuer
  | .config => t.cfg = s.cfg
  | .schedule => t.agenda = s.agenda ∧ t.envPos = s.envPos ∧ t.era = s.era

/-- Every part outside the list reads the same in both states. -/
def OnlyChanges (s t : State) (parts : List Part) : Prop :=
  ∀ part, part ∉ parts → unchanged s t part

/-- A command was answered with a status other than OK and changed nothing else (00_scope.md R7). -/
def Refused (s t : State) (st : Status) : Prop :=
  Answered s t s.issuer st 0 ∧ OnlyChanges s t [.slot s.issuer, .trace]

/-- The command answers OK with `v` and changes nothing else. -/
def Reads (i : Instr) (s : State) (v : Word) : Prop :=
  ∃ t, exec i s = .next t ∧ Answered s t s.issuer .ok v ∧ OnlyChanges s t [.slot s.issuer, .trace]

/-- The command is answered with status `st` and changes nothing else. -/
def IsRefused (i : Instr) (s : State) (st : Status) : Prop := ∃ t, exec i s = .next t ∧ Refused s t st

/-- The command is never answered with status `st`, whatever else it does. -/
def NeverAnswers (i : Instr) (s : State) (st : Status) : Prop :=
  ∀ t p v, exec i s = .next t → t.trace ≠ s.trace ++ [⟨p, st, v⟩]

/-- One of the causes for which RB.BEGIN cannot arm buffer `i` with unit `x` at FIFO address `a`: bound
already, an address that is not word-aligned, a unit FREE or RUNNING, or a unit that triggers another buffer
(43_ringbuffer.md R182, R183). -/
def CannotArm (s : State) (i : Idx) (x : UnitId) (a : Word) : Prop :=
  (bufOf s i).bound = true ∨ a.toNat % 4 ≠ 0 ∨ unitStateOf s x = .free ∨ unitStateOf s x = .running ∨
    ∃ j : Idx, j ≠ i ∧ j.val < s.cfg.nBuf ∧ (bufOf s j).bound = true ∧ (bufOf s j).trig = x

/-- From `s` to `t` the fatal error `e` was raised on behalf of slot `p`: answered, recorded, PDB in HALT
(60_exceptions.md R235). -/
def Raised (e : FatalError) (p : Port) (s t : State) : Prop :=
  Answered s t p (fatalStatus e) 0 ∧ t.halt = true ∧ t.errCode = statusCode (fatalStatus e) ∧ t.errCore = p.core

/-- `b'` is `b` after one unit-count at the end of an engine step (43_ringbuffer.md R188). -/
def UnitCounted (c : BufConfig) (b b' : Buffer) : Prop :=
  if b.ucount + 1 = c.xferUnit then b'.ucount = 0 ∧ b'.units = b.units + 1 ∧ b'.irqPend = true
  else b'.ucount = b.ucount + 1 ∧ b'.units = b.units ∧ b'.irqPend = b.irqPend

/-- The binding of the buffer is the same: the fields that RB.BEGIN writes (10_state.md R33). -/
def SameBinding (b b' : Buffer) : Prop :=
  b'.bound = b.bound ∧ b'.trig = b.trig ∧ b'.fifoAddr = b.fifoAddr ∧ b'.cbEn = b.cbEn ∧ b'.irqCore = b.irqCore

/-- Every word of the ring array outside index `i` reads as before. -/
def ArrayOnlyAt (m m' : Memory) (i : Nat) : Prop := ∀ j, j ≠ i → Memory.read m' j = Memory.read m j

/-- `b'` is `b` with the word `w` enqueued: stored at head mod N, every other array word as before, head
advanced modulo 2·N (43_ringbuffer.md R171). -/
def WordEnqueued (c : BufConfig) (b b' : Buffer) (w : Word) : Prop :=
  Memory.read b'.mem (b.head % c.n) = some w ∧ ArrayOnlyAt b.mem b'.mem (b.head % c.n) ∧
    b'.head = (b.head + 1) % (2 * c.n) ∧ b'.tail = b.tail

/-- `b'` is `b` with the word `w` dequeued: read at tail mod N, tail advanced modulo 2·N, the array as
before (43_ringbuffer.md R172). -/
def WordDequeued (c : BufConfig) (b b' : Buffer) (w : Word) : Prop :=
  Memory.read b.mem (b.tail % c.n) = some w ∧ b'.mem = b.mem ∧ b'.head = b.head ∧
    b'.tail = (b.tail + 1) % (2 * c.n)

/-- The ring itself is untouched. -/
def SameRing (b b' : Buffer) : Prop := b'.mem = b.mem ∧ b'.head = b.head ∧ b'.tail = b.tail

/-! ## The queue a ring holds -/

/-- The words a ring holds, oldest first: from tail to head (43_ringbuffer.md R170). An unwritten word
stands as none. -/
def contents (c : BufConfig) (b : Buffer) : List (Option Word) :=
  (List.range (fill c b)).map (fun k => Memory.read b.mem ((b.tail + k) % c.n))

/-! ## Invariants -/

/-- The ring invariant (10_state.md R31, R32; 43_ringbuffer.md R173): indices in range, at most N words
held, the array in canonical form and within its bounds, and every held word written. -/
def RingInv (c : BufConfig) (b : Buffer) : Prop :=
  b.head < 2 * c.n ∧ b.tail < 2 * c.n ∧ fill c b ≤ c.n ∧ Memory.wf b.mem = true ∧
  (∀ e ∈ b.mem, e.1 < c.n) ∧ (∀ k, k < fill c b → (Memory.read b.mem ((b.tail + k) % c.n)).isSome = true)

/-- The engine invariant (10_state.md R35; 43_ringbuffer.md R186 to R188): counters in range, transfer
units ending on frame boundaries, whole frames in the ring, and room (or words) left for the second word
of a frame once the first was accepted. -/
def EngineInv (c : BufConfig) (b : Buffer) : Prop :=
  b.phase < 2 ∧ b.ucount < c.xferUnit ∧ b.ucount % 2 = b.phase ∧
  (c.dir = .input →
    b.head % 2 = (if b.phase = 1 ∧ b.latch = true then 1 else 0) ∧ b.winPos % 2 = b.phase ∧
    (b.phase = 1 → b.latch = true → 1 ≤ freeWords c b) ∧ b.underrun = false ∧ b.wireOut = []) ∧
  (c.dir = .output →
    b.tail % 2 = (if b.phase = 1 ∧ b.latch = true then 1 else 0) ∧ b.wireOut.length % 2 = b.phase ∧
    (b.phase = 1 → b.latch = true → 1 ≤ fill c b) ∧ b.overrun = false ∧ b.winPos = 0)

/-- The ring and engine invariants of every existing buffer, under a legal configuration. -/
def BuffersInv (s : State) : Prop :=
  s.cfg.Valid ∧ ∀ b : Idx, b.val < s.cfg.nBuf → RingInv (bufCfg s b) (bufOf s b) ∧ EngineInv (bufCfg s b) (bufOf s b)

/-- What the ring of an IN buffer holds while no frame has been dropped: the words of the wire in order,
the newest being the last one taken (43_ringbuffer.md R189). -/
def WireInOrder (s : State) (b : Idx) : Prop :=
  (bufOf s b).overrun = false →
    (bufOf s b).head = (bufOf s b).winPos % (2 * (bufCfg s b).n) ∧
    fill (bufCfg s b) (bufOf s b) ≤ (bufOf s b).winPos ∧
    contents (bufCfg s b) (bufOf s b) =
      (List.range (fill (bufCfg s b) (bufOf s b))).map
        (fun k => some (wireInWord s b ((bufOf s b).winPos - fill (bufCfg s b) (bufOf s b) + k)))

/-- Remainders stay in their mask range (10_state.md R24, 41_iir_filter.md R134). -/
def RemaindersInRange (s : State) : Prop := ∀ ch i, (stageOf s ch i).rem < 2 ^ s.cfg.q

/-- The words a claim between LOAD and RECORD has already reserved on block `k` for a program that the
table does not list yet. -/
def pendingLen (s : State) (k : Blk) : Nat :=
  if s.arbState = .record ∧ s.arbSel.unit.blk = k ∧ (entryOf s k s.arbReq.p).valid = false then
    s.arbReq.len.toNat
  else 0

/-- The instruction-memory words that the valid entries of block `k` occupy. -/
def residentLen (s : State) (k : Blk) : Nat :=
  (allIdx.map (fun p => if (entryOf s k p).valid then (entryOf s k p).len.toNat else 0)).sum

/-- The occupancy of block `k` (42_arbitrator.md R156): the valid entries fill exactly the occupied words
(but for a program placed and not yet recorded), each has a place of its own, and each was loaded once
(R158). -/
def BlockInv (s : State) (k : Blk) : Prop :=
  residentLen s k + pendingLen s k = (blkOf s k).imemUsed ∧ (blkOf s k).imemUsed ≤ s.cfg.m ∧
  (∀ p, (entryOf s k p).valid = true →
    p.val < s.cfg.nProg ∧ 1 ≤ (entryOf s k p).len.toNat ∧
    (entryOf s k p).offset.toNat + (entryOf s k p).len.toNat + pendingLen s k ≤ (blkOf s k).imemUsed) ∧
  (∀ p q, p ≠ q → (entryOf s k p).valid = true → (entryOf s k q).valid = true →
    (entryOf s k p).offset.toNat + (entryOf s k p).len.toNat ≤ (entryOf s k q).offset.toNat ∨
    (entryOf s k q).offset.toNat + (entryOf s k q).len.toNat ≤ (entryOf s k p).offset.toNat) ∧
  (blkOf s k).loadCount.toNat =
    (allIdx.filter (fun p => (entryOf s k p).valid)).length + (if pendingLen s k = 0 then 0 else 1)

/-- The arbitrator's invariant (42_arbitrator.md R156): the lock is held exactly while a claim is in
progress, by the claim's core; the latches name what the claim has found; the claim's command is
outstanding unless HALT answered it. -/
def ArbInv (s : State) : Prop :=
  s.cfg.Valid ∧ (s.lock.held = true ↔ s.arbState ≠ .idle) ∧
  (s.lock.held = true → s.lock.owner = s.arbReq.port.core) ∧
  (s.arbState ≠ .idle → s.arbReq.p.val < s.cfg.nProg ∧ 1 ≤ s.arbReq.len.toNat ∧ s.arbReq.len.toNat ≤ s.cfg.m) ∧
  (s.arbState ≠ .idle → s.halt = false → slotOf s s.arbReq.port ≠ none) ∧
  (s.arbState = .load ∨ s.arbState = .record →
    unitStateOf s s.arbSel.unit = .free ∧ s.arbSel.unit.u.val < s.cfg.u) ∧
  (s.arbState = .record →
    ((entryOf s s.arbSel.unit.blk s.arbReq.p).valid = true →
      s.arbSel.offset = (entryOf s s.arbSel.unit.blk s.arbReq.p).offset) ∧
    ((entryOf s s.arbSel.unit.blk s.arbReq.p).valid = false →
      s.arbSel.offset.toNat + s.arbReq.len.toNat = (blkOf s s.arbSel.unit.blk).imemUsed)) ∧
  (∀ k, BlockInv s k)

/-- Units and bindings (10_state.md R43; 43_ringbuffer.md R182): nothing runs before the first arming; a
bound buffer's trigger unit exists and is claimed, and no other bound buffer has it. -/
def StartInv (s : State) : Prop :=
  (s.armed = false → ∀ x, unitStateOf s x ≠ .running) ∧
  (∀ b, (bufOf s b).bound = true →
    b.val < s.cfg.nBuf ∧ (bufOf s b).trig.u.val < s.cfg.u ∧ unitStateOf s (bufOf s b).trig ≠ .free ∧
    (bufOf s b).fifoAddr.toNat % 4 = 0) ∧
  (∀ b b', b ≠ b' → (bufOf s b).bound = true → (bufOf s b').bound = true → (bufOf s b).trig ≠ (bufOf s b').trig)

/-- The error state (10_state.md R44): no code outside HALT, one of the three codes in HALT. -/
def ErrorInv (s : State) : Prop :=
  (s.halt = false → s.errCode = 0 ∧ s.errCore = 0) ∧
  (s.halt = true → s.errCode = 0x81#8 ∨ s.errCode = 0x82#8 ∨ s.errCode = 0x83#8)

/-! ## Filter coefficients -/

/-- AccSafe(ch, s): the sum of the coefficients' magnitudes is at most 2^32 − 1 (40_coefficients.md
R126). -/
def AccSafe (st : Stage) : Prop :=
  (s32 st.coef[0]).natAbs + (s32 st.coef[1]).natAbs + (s32 st.coef[2]).natAbs + (s32 st.coef[3]).natAbs +
    (s32 st.coef[4]).natAbs ≤ 2 ^ 32 - 1

/-- A stage loaded with the identity filter (2^Q, 0, 0, 0, 0) (40_coefficients.md R122). -/
def IdentityStage (c : Config) (st : Stage) : Prop :=
  st.coef = #v[BitVec.ofNat 32 (2 ^ c.q), 0, 0, 0, 0] ∧ loaded st = true

/-- The contract of the integers given to `BQ.LDC`: trunc(c·2^Q), rounding toward zero (40_coefficients.md
R121). The conversion is software's. -/
def coefOfReal (q : Nat) (c : ℚ) : Int := (c.num * 2 ^ q).tdiv c.den

/-- The outputs and the last stage of a run of one stage over a list of inputs, with the sums FF + FB_SIGN·FB
of its steps (41_iir_filter.md R143). -/
def stageRun (c : Config) (st : Stage) : List Word → Stage × List Word × List Int
  | [] => (st, [], [])
  | x :: rest =>
    let r := stageStep c st x
    let after := stageRun c r.1 rest
    (after.1, r.2 :: after.2.1, (feedForward c st x + c.fbSign.toInt * feedBack c st) :: after.2.2)

/-- The accumulator and the output of every step of the run stay in range. -/
def NoOverflow (c : Config) (st : Stage) : List Word → Prop
  | [] => True
  | x :: rest =>
    (-(2 ^ 63) ≤ stageSum c st x ∧ stageSum c st x < 2 ^ 63) ∧
    (-(2 ^ 31) ≤ asr (stageSum c st x) c.q ∧ asr (stageSum c st x) c.q < 2 ^ 31) ∧
    NoOverflow c (stageStep c st x).1 rest

/-- The commands BQ.STEP ch, i for each listed stage in turn, each with the response of the one before as
its input; none if one of them is not answered (41_iir_filter.md R140). -/
def stepsInTurn (ch : BitVec 4) : List Idx → Word → State → Option (State × Word)
  | [], x, s => some (s, x)
  | i :: rest, x, s =>
    match exec (.bqStep ch (BitVec.ofFin i) x) s with
    | .next t =>
      match t.trace.getLast? with
      | some r => if r.status = .ok then stepsInTurn ch rest r.rdata t else none
      | none => none
    | _ => none

/-- A sequence of commands executed one after the other on the issuing slot, stopping where one does not
answer a next state. -/
def execAll : List Instr → State → Host.Outcome State Fault Refusal
  | [], s => .next s
  | i :: rest, s =>
    match exec i s with
    | .next t => execAll rest t
    | .fault f => .fault f
    | .refused r => .refused r

/-- The order FREE, CLAIMED, WAITING, RUNNING in which a unit moves (44_sync_and_loop.md R200) is the order
of the codes. -/
def unitNotBefore (a b : UnitState) : Prop := unitCode b ≤ unitCode a

end Sys2Proof.Machine
end

