-- ==== Sys2Proof/Certificates/Slice0/Obligations.lean ====
section
/-! DEFINITION. The statements for the provers, in the terms of Safety.lean. Each docstring names the rule of
spec/ it formalises. -/

open Sys2Proof Sys2Proof.Machine

/-! ## Encoding -/

/-- Encoding a command and decoding its words gives the command back, with every operand at every value
(30_encoding.md R91, R94, R95). -/
def Obligations.DecodeOfEncodeGivesTheCommand : Prop :=
  ∀ i : Instr, decode (encode i).cw (encode i).data = .ok i

/-- A legal command word is the one that its command encodes to; format D keeps the data word and format N
ignores it (30_encoding.md R90, R92). -/
def Obligations.EncodeOfDecodeGivesTheWords : Prop :=
  ∀ (cw data : Word) (i : Instr), decode cw data = .ok i →
    (encode i).cw = cw ∧ (i.opcode.format = .D → (encode i).data = data) ∧
    (i.opcode.format = .N → ∀ data', decode cw data' = .ok i)

/-- A word is legal exactly when it matches one row of the opcode table, no two rows match one word, a
reserved opcode and the words 0 and 0xFFFFFFFF match none, and a word that matches none is answered ILLEGAL
and changes nothing (30_encoding.md R97, R98). -/
def Obligations.IllegalWordsAreAnsweredIllegal : Prop :=
  (∀ cw data : Word, (∃ i, decode cw data = .ok i) ↔ ∃ r ∈ opTable, r.matches cw = true) ∧
  (∀ cw data : Word, ∀ i, decode cw data = .ok i → ∃ r ∈ opTable, r.op = i.opcode ∧ r.matches cw = true) ∧
  (∀ cw : Word, ∀ r ∈ opTable, ∀ r' ∈ opTable, r.matches cw = true → r'.matches cw = true → r = r') ∧
  (∀ cw : Word, (∀ o ∈ Opcode.all, o.code ≠ cw.extractLsb' 24 8) → ∀ r ∈ opTable, r.matches cw = false) ∧
  (∀ r ∈ opTable, r.matches 0x00000000 = false ∧ r.matches 0xFFFFFFFF = false) ∧
  (∀ (s : State) (c : Command), s.halt = false → (∀ r ∈ opTable, r.matches c.cw = false) →
    ∃ t, executeCommand c s = .next t ∧ Refused s t .illegal)

/-- The worked encodings of 30_encoding.md R103, in both directions. -/
def Obligations.WorkedEncodingsDecode : Prop :=
  (∀ x : Word, encode (.bqStep 1 2 x) = ⟨0x12120000, x⟩ ∧ decode 0x12120000 x = .ok (.bqStep 1 2 x)) ∧
  (∀ c : Word, encode (.bqLdc 0 0 3 c) = ⟨0x10000003, c⟩ ∧ decode 0x10000003 c = .ok (.bqLdc 0 0 3 c)) ∧
  (encode (.rbBegin 1 0 2 true 0x50200018) = ⟨0x24100102, 0x50200018⟩ ∧
    decode 0x24100102 0x50200018 = .ok (.rbBegin 1 0 2 true 0x50200018)) ∧
  ((encode (.arbClaim 3 8)).cw = 0x30000803 ∧ ∀ d : Word, decode 0x30000803 d = .ok (.arbClaim 3 8)) ∧
  ((encode (.seqEn 1 3)).cw = 0x31130000 ∧ ∀ d : Word, decode 0x31130000 d = .ok (.seqEn 1 3)) ∧
  ((encode (.csrRd 0x108)).cw = 0x3F000108 ∧ ∀ d : Word, decode 0x3F000108 d = .ok (.csrRd 0x108)) ∧
  ((encode .syncArm).cw = 0x32000000 ∧ ∀ d : Word, decode 0x32000000 d = .ok .syncArm)

/-! ## Executing a command -/

/-- A step takes the next event, from the agenda or the free schedule (the model's own, log 2), and runs it. A
step that serves a slot executes the command decoded from the slot's words, on behalf of that slot, or answers
the words as illegal (00_scope.md R8, 70_reset_and_hazards.md R270). That a command is served in a step after
the one that presents it, and that a claim in progress is not tried again, are the model's deductions (logs 4
and 21); that a held claim is tried again with the whole of its rule is its choice (log 25). -/
def Obligations.StepRunsTheDecodedCommand : Prop :=
  ∀ s : State,
    (∀ e rest, s.agenda = e :: rest → nextEvent s = (e, setSchedule rest s.envPos s)) ∧
    (s.agenda = [] → nextEvent s = (Config.envEvent s.envPos, setSchedule [] (s.envPos + 1) s)) ∧
    step s = runEvent (nextEvent s).1 (nextEvent s).2 ∧
    ∀ (p : Port) (c : Command), (nextEvent s).1 = .serve p → slotOf s p = some c →
      let u := (nextEvent s).2
      (claimInProgress s p = false ∨ s.halt = true →
        (∀ i, decode c.cw c.data = .ok i → step s = exec i (setIssuer p u)) ∧
        ((∀ i, decode c.cw c.data ≠ .ok i) →
          step s = .next (refuse (if s.halt then .halted else .illegal) (setIssuer p u)))) ∧
      (claimInProgress s p = true → s.halt = false → step s = .next u)

/-- In HALT every word that is not a legal CSR.RD is answered HALTED and changes nothing, and a legal CSR.RD
is answered as ever (60_exceptions.md R236 (a), R242 (1)). -/
def Obligations.HaltedCommandsAreRefused : Prop :=
  ∀ (s : State) (c : Command), s.halt = true →
    ((∀ csr, decode c.cw c.data ≠ .ok (.csrRd csr)) → ∃ t, executeCommand c s = .next t ∧ Refused s t .halted) ∧
    (∀ csr, decode c.cw c.data = .ok (.csrRd csr) →
      executeCommand c s = exec (.csrRd csr) s ∧ ((∃ v, Reads (.csrRd csr) s v) ∨ IsRefused (.csrRd csr) s .badsel))

/-- A legal command whose selectors do not all name something that exists is answered BADSEL and changes
nothing; a command whose selectors do is never answered BADSEL (30_encoding.md R99). -/
def Obligations.SelectorsOutOfRangeAreBadsel : Prop :=
  ∀ (s : State) (c : Command) (i : Instr), decode c.cw c.data = .ok i →
    (s.halt = false ∨ ∃ csr, i = .csrRd csr) →
    (i.wellFormed s.cfg = false → ∃ t, executeCommand c s = .next t ∧ Refused s t .badsel) ∧
    (s.cfg.Valid → i.wellFormed s.cfg = true →
      ∀ t p v, executeCommand c s = .next t → t.trace ≠ s.trace ++ [⟨p, .badsel, v⟩])

/-- One privilege level: apart from the claim and the binding, which record the issuing core, a command has
the same effect from every slot of every core: the same response to whoever issued it, and the same change of
everything else (60_exceptions.md R244, R245). -/
def Obligations.EverySlotHasTheSameRights : Prop :=
  ∀ (i : Instr) (s t : State) (p q : Port), i.opcode ≠ .claim → i.opcode ≠ .begin_ →
    exec i (setIssuer p s) = .next t →
    ∃ u, exec i (setIssuer q s) = .next u ∧
      (∀ part, (∀ r, part ≠ .slot r) → part ≠ .trace → part ≠ .issuer → unchanged t u part) ∧
      ((t = setIssuer p s ∧ u = setIssuer q s) ∨
        ∃ st v, Answered (setIssuer p s) t p st v ∧ Answered (setIssuer q s) u q st v)

/-! ## Coefficients -/

/-- BQ.LDC before arming writes one coefficient, marks it valid, and changes nothing else (40_coefficients.md
R123). -/
def Obligations.LdcLoadsOneCoefficient : Prop :=
  ∀ (s : State) (ch st : BitVec 4) (k : BitVec 3) (coef : Word) (ch' : Chan) (i : Idx) (k' : Fin 5),
    s.halt = false → s.armed = false → ch.toNat = ch'.val → st.toNat = i.val → i.val < s.cfg.nSt[ch'] →
    k.toNat = k'.val →
    ∃ t, exec (.bqLdc ch st k coef) s = .next t ∧ Answered s t s.issuer .ok 0 ∧
      OnlyChanges s t [.stage ch' i, .slot s.issuer, .trace] ∧
      (stageOf t ch' i).coef[k'] = coef ∧ (stageOf t ch' i).cval[k'] = true ∧
      (∀ j : Fin 5, j ≠ k' → (stageOf t ch' i).coef[j] = (stageOf s ch' i).coef[j] ∧
        (stageOf t ch' i).cval[j] = (stageOf s ch' i).cval[j]) ∧
      (stageOf t ch' i).x1 = (stageOf s ch' i).x1 ∧ (stageOf t ch' i).x2 = (stageOf s ch' i).x2 ∧
      (stageOf t ch' i).y1 = (stageOf s ch' i).y1 ∧ (stageOf t ch' i).y2 = (stageOf s ch' i).y2 ∧
      (stageOf t ch' i).rem = (stageOf s ch' i).rem

/-- Once armed, BQ.LDC is answered BADSTATE and changes nothing, and no step but reset changes a coefficient
or un-arms (40_coefficients.md R124, 10_state.md R26). -/
def Obligations.CoefficientsAreFixedOnceArmed : Prop :=
  (∀ (s : State) (ch st : BitVec 4) (k : BitVec 3) (coef : Word), s.halt = false → s.armed = true →
    (Instr.bqLdc ch st k coef).wellFormed s.cfg = true → IsRefused (.bqLdc ch st k coef) s .badstate) ∧
  (∀ s t : State, step s = .next t → s.armed = true → (nextEvent s).1 ≠ .reset →
    t.armed = true ∧ ∀ ch i, (stageOf t ch i).coef = (stageOf s ch i).coef ∧
      (stageOf t ch i).cval = (stageOf s ch i).cval)

/-- BQ.RDS returns the register that `r` names, BADSTATE for a coefficient never loaded, 0 for the second
history registers when DEPTH = 1, and changes nothing (40_coefficients.md R125). -/
def Obligations.RdsReadsTheNamedRegister : Prop :=
  ∀ (s : State) (ch st r : BitVec 4) (ch' : Chan) (i : Idx), s.halt = false →
    ch.toNat = ch'.val → st.toNat = i.val → i.val < s.cfg.nSt[ch'] →
    (∀ k : Fin 5, r.toNat = k.val →
      ((stageOf s ch' i).cval[k] = true → Reads (.bqRds ch st r) s (stageOf s ch' i).coef[k]) ∧
      ((stageOf s ch' i).cval[k] = false → IsRefused (.bqRds ch st r) s .badstate)) ∧
    (r.toNat = 5 → Reads (.bqRds ch st r) s (stageOf s ch' i).x1) ∧
    (r.toNat = 6 → Reads (.bqRds ch st r) s (match s.cfg.depth with | .two => (stageOf s ch' i).x2 | .one => 0)) ∧
    (r.toNat = 7 → Reads (.bqRds ch st r) s (stageOf s ch' i).y1) ∧
    (r.toNat = 8 → Reads (.bqRds ch st r) s (match s.cfg.depth with | .two => (stageOf s ch' i).y2 | .one => 0)) ∧
    (r.toNat = 9 → Reads (.bqRds ch st r) s (BitVec.ofNat 32 (stageOf s ch' i).rem))

/-- BQ.IDENT expands to commands that, issued one after the other before arming, leave the stage loaded with
the identity filter and change nothing else, neither its history nor its remainder (30_encoding.md R102,
40_coefficients.md R122, R123). -/
def Obligations.IdentMakesAnIdentityStage : Prop :=
  ∀ (s : State) (ch st : BitVec 4) (ch' : Chan) (i : Idx), s.halt = false → s.armed = false →
    ch.toNat = ch'.val → st.toNat = i.val → i.val < s.cfg.nSt[ch'] →
    ∃ t, execAll (expandPseudo s.cfg (.ident ch st)) s = .next t ∧ IdentityStage s.cfg (stageOf t ch' i) ∧
      t.trace = s.trace ++ List.replicate 5 ⟨s.issuer, .ok, 0⟩ ∧
      OnlyChanges s t [.stage ch' i, .slot s.issuer, .trace] ∧
      (stageOf t ch' i).x1 = (stageOf s ch' i).x1 ∧ (stageOf t ch' i).x2 = (stageOf s ch' i).x2 ∧
      (stageOf t ch' i).y1 = (stageOf s ch' i).y1 ∧ (stageOf t ch' i).y2 = (stageOf s ch' i).y2 ∧
      (stageOf t ch' i).rem = (stageOf s ch' i).rem

/-! ## The filter -/

/-- BQ.STEP on a loaded stage: it answers OK with the new output, shifts the history, and writes no other
register; while the exact sum S of R131 fits the accumulator the remainder is S mod 2^Q, and while the
shifted sum fits a word the output is floor(S / 2^Q) (41_iir_filter.md R131, R134, R136, R137, R139). -/
def Obligations.StepFiltersOneSample : Prop :=
  ∀ (s : State) (ch st : BitVec 4) (x : Word) (ch' : Chan) (i : Idx), s.halt = false →
    ch.toNat = ch'.val → st.toNat = i.val → i.val < s.cfg.nSt[ch'] →
    (∀ k : Fin 5, (stageOf s ch' i).cval[k] = true) →
    let g := stageOf s ch' i
    let two : Int := match s.cfg.depth with | .two => 1 | .one => 0
    let sum : Int := g.rem +
      (g.coef[0].toInt * x.toInt + g.coef[1].toInt * g.x1.toInt + two * (g.coef[2].toInt * g.x2.toInt)) +
      (match s.cfg.fbSign with | .minus => -1 | .plus => 1) *
        (g.coef[3].toInt * g.y1.toInt + two * (g.coef[4].toInt * g.y2.toInt))
    ∃ t y, exec (.bqStep ch st x) s = .next t ∧ Answered s t s.issuer .ok y ∧
      OnlyChanges s t [.stage ch' i, .slot s.issuer, .trace] ∧
      (stageOf t ch' i).coef = g.coef ∧ (stageOf t ch' i).cval = g.cval ∧
      (stageOf t ch' i).x1 = x ∧ (stageOf t ch' i).y1 = y ∧
      (s.cfg.depth = .two → (stageOf t ch' i).x2 = g.x1 ∧ (stageOf t ch' i).y2 = g.y1) ∧
      (s.cfg.depth = .one → (stageOf t ch' i).x2 = g.x2 ∧ (stageOf t ch' i).y2 = g.y2) ∧
      (-(2 ^ 63) ≤ sum → sum < 2 ^ 63 →
        ((stageOf t ch' i).rem : Int) = sum % 2 ^ s.cfg.q ∧
        (-(2 ^ 31) ≤ sum / 2 ^ s.cfg.q → sum / 2 ^ s.cfg.q < 2 ^ 31 → y.toInt = sum / 2 ^ s.cfg.q))

/-- BQ.STEP on a stage with an unloaded coefficient, and BQ.CHAIN on a channel that contains one, are answered
BADSTATE and change no state of any stage (41_iir_filter.md R138). -/
def Obligations.UnloadedStagesRefuse : Prop :=
  (∀ (s : State) (ch st : BitVec 4) (x : Word) (ch' : Chan) (i : Idx) (k : Fin 5), s.halt = false →
    ch.toNat = ch'.val → st.toNat = i.val → i.val < s.cfg.nSt[ch'] → (stageOf s ch' i).cval[k] = false →
    IsRefused (.bqStep ch st x) s .badstate) ∧
  (∀ (s : State) (ch : BitVec 4) (x : Word) (ch' : Chan) (i : Idx) (k : Fin 5), s.halt = false →
    ch.toNat = ch'.val → i.val < s.cfg.nSt[ch'] → (stageOf s ch' i).cval[k] = false →
    IsRefused (.bqChain ch x) s .badstate)

/-- BQ.CHAIN on a channel whose stages are all loaded answers OK, and equals BQ.STEP on each stage in turn,
each taking the output of the one before: the same response and the same registers; an empty chain answers its
input and changes nothing (41_iir_filter.md R140, R141). -/
def Obligations.ChainEqualsStepsInTurn : Prop :=
  ∀ (s : State) (ch : BitVec 4) (x : Word) (ch' : Chan), s.halt = false → ch.toNat = ch'.val →
    (∀ i : Idx, i.val < s.cfg.nSt[ch'] → ∀ k : Fin 5, (stageOf s ch' i).cval[k] = true) →
    ∃ t u v, exec (.bqChain ch x) s = .next t ∧
      stepsInTurn ch (below s.cfg.nSt[ch']) x s = some (u, v) ∧
      Answered s t s.issuer .ok v ∧ (∀ c j, stageOf t c j = stageOf u c j) ∧
      OnlyChanges s t ((below s.cfg.nSt[ch']).map (.stage ch') ++ [.slot s.issuer, .trace]) ∧
      (s.cfg.nSt[ch'] = 0 → Reads (.bqChain ch x) s x)

/-- A stage loaded with the identity filter returns its input, keeps its remainder, and cannot overflow; a
chain of such stages is the identity (41_iir_filter.md R142). The remainder's range is the invariant of
10_state.md R24. -/
def Obligations.IdentityStagesReturnTheirInput : Prop :=
  (∀ (c : Config) (g : Stage) (x : Word), c.Valid → IdentityStage c g → g.rem < 2 ^ c.q →
    stageSum c g x = g.rem + 2 ^ c.q * x.toInt ∧ -(2 ^ 63) ≤ stageSum c g x ∧ stageSum c g x < 2 ^ 63) ∧
  (∀ (s : State) (ch st : BitVec 4) (x : Word) (ch' : Chan) (i : Idx), s.cfg.Valid → s.halt = false →
    ch.toNat = ch'.val → st.toNat = i.val → i.val < s.cfg.nSt[ch'] → IdentityStage s.cfg (stageOf s ch' i) →
    (stageOf s ch' i).rem < 2 ^ s.cfg.q →
    ∃ t, exec (.bqStep ch st x) s = .next t ∧ Answered s t s.issuer .ok x ∧
      (stageOf t ch' i).rem = (stageOf s ch' i).rem) ∧
  (∀ (s : State) (ch : BitVec 4) (x : Word) (ch' : Chan), s.cfg.Valid → s.halt = false → ch.toNat = ch'.val →
    (∀ i : Idx, i.val < s.cfg.nSt[ch'] →
      IdentityStage s.cfg (stageOf s ch' i) ∧ (stageOf s ch' i).rem < 2 ^ s.cfg.q) →
    ∃ t, exec (.bqChain ch x) s = .next t ∧ Answered s t s.issuer .ok x ∧
      ∀ i, (stageOf t ch' i).rem = (stageOf s ch' i).rem)

/-- Over any run of one stage without overflow no truncation error is lost:
2^Q·Σy = Σ(FF + FB_SIGN·FB) + rem_first − rem_last (41_iir_filter.md R143 (b)). -/
def Obligations.TruncationErrorIsOnlyDelayed : Prop :=
  ∀ (c : Config) (g : Stage) (xs : List Word), NoOverflow c g xs →
    2 ^ c.q * ((stageRun c g xs).2.1.map BitVec.toInt).sum =
      (stageRun c g xs).2.2.sum + (g.rem : Int) - ((stageRun c g xs).1.rem : Int)

/-- AccSafe keeps the exact sum inside the accumulator for every input and every state of the stage, so the
accumulator holds the sum itself; every single product fits too (40_coefficients.md R126). -/
def Obligations.AccSafeKeepsTheSumInRange : Prop :=
  (∀ c x : Word, |c.toInt * x.toInt| ≤ 2 ^ 62) ∧
  (∀ (c : Config) (g : Stage) (x : Word), c.q ≤ 30 → g.rem < 2 ^ c.q → AccSafe g →
    -(2 ^ 63) ≤ stageSum c g x ∧ stageSum c g x ≤ 2 ^ 63 - 1 ∧ accValue (stageSum c g x) = stageSum c g x)

/-- Every step keeps every remainder in its mask range (10_state.md R24, 41_iir_filter.md R134). -/
def Obligations.RemaindersStayInRange : Prop :=
  ∀ s t : State, RemaindersInRange s → step s = .next t → RemaindersInRange t

/-! ## Width alignment -/

/-- AL.IN answers the word shifted right by IN_SHIFT, rounding toward minus infinity, and changes nothing
(44_sync_and_loop.md R205). -/
def Obligations.AlInShiftsRight : Prop :=
  ∀ (s : State) (w : Word), s.halt = false →
    ∃ v, Reads (.alIn w) s v ∧ v.toInt = w.toInt / 2 ^ s.cfg.inShift ∧ (s.cfg.inShift = 0 → v = w)

/-- AL.OUT answers the sample shifted left by OUT_SHIFT modulo 2^32, and changes nothing; the result is exact
exactly for the samples in the range of 44_sync_and_loop.md R206. -/
def Obligations.AlOutShiftsLeft : Prop :=
  ∀ (s : State) (v : Word), s.halt = false → s.cfg.outShift ≤ 31 →
    ∃ w, Reads (.alOut v) s w ∧ (w.toInt - v.toInt * 2 ^ s.cfg.outShift) % 2 ^ 32 = 0 ∧
      (w.toInt = v.toInt * 2 ^ s.cfg.outShift ↔
        -(2 ^ (31 - s.cfg.outShift)) ≤ v.toInt ∧ v.toInt ≤ 2 ^ (31 - s.cfg.outShift) - 1)

/-- The source's end-to-end frame: aligned by 8, through identity chains, aligned back by 7
(44_sync_and_loop.md R208). -/
def Obligations.EndToEndFrame : Prop :=
  ∀ s : State, s.cfg.Valid → s.cfg.inShift = 8 → s.cfg.outShift = 7 → s.halt = false →
    (∀ (ch : Chan) (i : Idx), i.val < s.cfg.nSt[ch] →
      IdentityStage s.cfg (stageOf s ch i) ∧ (stageOf s ch i).rem < 2 ^ s.cfg.q) →
    ∃ t, execAll [.alIn 0x7FFFFF00, .alIn 0x80000000, .bqChain 0 0x007FFFFF, .bqChain 1 0xFF800000,
        .alOut 0x007FFFFF, .alOut 0xFF800000] s = .next t ∧
      t.trace = s.trace ++
        [⟨s.issuer, .ok, 0x007FFFFF⟩, ⟨s.issuer, .ok, 0xFF800000⟩, ⟨s.issuer, .ok, 0x007FFFFF⟩,
         ⟨s.issuer, .ok, 0xFF800000⟩, ⟨s.issuer, .ok, 0x3FFFFF80⟩, ⟨s.issuer, .ok, 0xC0000000⟩]

/-! ## Ring buffers -/

/-- Enqueue, where the spec defines it, stores the word at head mod N, advances head modulo 2·N and writes
nothing else; Dequeue, where the spec defines it and the word was written, returns the word at tail mod N,
advances tail and writes nothing else (43_ringbuffer.md R171, R172). -/
def Obligations.QueuePrimitivesMoveOneWord : Prop :=
  ∀ (c : BufConfig) (b : Buffer), 0 < c.n →
    (∀ v, 1 ≤ freeWords c b → ∃ b', enqueue c b v = .ok b' ∧ WordEnqueued c b b' v ∧
      b' = { b with mem := b'.mem, head := b'.head }) ∧
    (∀ v, 1 ≤ fill c b → Memory.read b.mem (b.tail % c.n) = some v →
      ∃ b', dequeue c b = .ok (v, b') ∧ WordDequeued c b b' v ∧ b' = { b with tail := b'.tail })

/-- A ring is a first-in first-out queue of exactly N words: with room Enqueue appends to what the ring
holds, with a word held Dequeue takes the oldest, and both keep the ring invariant, so no unwritten and no
overwritten word is ever returned (43_ringbuffer.md R170, R173; 20_memory.md R72). -/
def Obligations.RingIsAFifoQueue : Prop :=
  ∀ (c : BufConfig) (b : Buffer), 0 < c.n → RingInv c b →
    (contents c b).length = fill c b ∧ none ∉ contents c b ∧
    (∀ v, fill c b < c.n → ∃ b', enqueue c b v = .ok b' ∧ RingInv c b' ∧
      contents c b' = contents c b ++ [some v]) ∧
    (fill c b ≠ 0 → ∃ v b', dequeue c b = .ok (v, b') ∧ RingInv c b' ∧
      contents c b = some v :: contents c b')

/-- RB.WR and RB.WRB on an OUT buffer: with room both enqueue the word and answer OK, changing nothing else;
on a full buffer RB.WR answers FULL and changes nothing, and RB.WRB is held and changes nothing
(43_ringbuffer.md R175, R176). -/
def Obligations.WritesEnqueueOrReportFull : Prop :=
  ∀ (s : State) (b : BitVec 4) (w : Word) (i : Idx), s.halt = false → b.toNat = i.val →
    i.val < s.cfg.nBuf → (bufCfg s i).dir = .output → 0 < (bufCfg s i).n →
    (1 ≤ freeWords (bufCfg s i) (bufOf s i) → ∀ instr, (instr = .rbWr b w ∨ instr = .rbWrb b w) →
      ∃ t, exec instr s = .next t ∧ Answered s t s.issuer .ok 0 ∧
        OnlyChanges s t [.buffer i, .slot s.issuer, .trace] ∧
        WordEnqueued (bufCfg s i) (bufOf s i) (bufOf t i) w ∧
        bufOf t i = { bufOf s i with mem := (bufOf t i).mem, head := (bufOf t i).head }) ∧
    (freeWords (bufCfg s i) (bufOf s i) = 0 →
      IsRefused (.rbWr b w) s .full ∧ exec (.rbWrb b w) s = .next s)

/-- RB.RD and RB.RDB on an IN buffer: with a (written) word at the tail both dequeue it and answer OK with
it, changing nothing else; on an empty buffer RB.RD answers EMPTY and changes nothing, and RB.RDB is held and
changes nothing (43_ringbuffer.md R177, R178). -/
def Obligations.ReadsDequeueOrReportEmpty : Prop :=
  ∀ (s : State) (b : BitVec 4) (i : Idx), s.halt = false → b.toNat = i.val → i.val < s.cfg.nBuf →
    (bufCfg s i).dir = .input → 0 < (bufCfg s i).n →
    (∀ v, 1 ≤ fill (bufCfg s i) (bufOf s i) →
      Memory.read (bufOf s i).mem ((bufOf s i).tail % (bufCfg s i).n) = some v →
      ∀ instr, (instr = .rbRd b ∨ instr = .rbRdb b) →
      ∃ t, exec instr s = .next t ∧ Answered s t s.issuer .ok v ∧
        OnlyChanges s t [.buffer i, .slot s.issuer, .trace] ∧
        WordDequeued (bufCfg s i) (bufOf s i) (bufOf t i) v ∧
        bufOf t i = { bufOf s i with tail := (bufOf t i).tail }) ∧
    (fill (bufCfg s i) (bufOf s i) = 0 → IsRefused (.rbRd b) s .empty ∧ exec (.rbRdb b) s = .next s)

/-- The foreground writes OUT buffers and reads IN buffers only: on the wrong direction the command answers
BADSTATE and changes nothing, on the right one no BADSTATE is ever answered, bound or not, armed or not
(43_ringbuffer.md R174). -/
def Obligations.WrongDirectionIsBadstate : Prop :=
  ∀ (s : State) (b : BitVec 4) (w : Word) (i : Idx), s.halt = false → b.toNat = i.val → i.val < s.cfg.nBuf →
    ((bufCfg s i).dir = .input →
      IsRefused (.rbWr b w) s .badstate ∧ IsRefused (.rbWrb b w) s .badstate ∧
      NeverAnswers (.rbRd b) s .badstate ∧ NeverAnswers (.rbRdb b) s .badstate) ∧
    ((bufCfg s i).dir = .output →
      IsRefused (.rbRd b) s .badstate ∧ IsRefused (.rbRdb b) s .badstate ∧
      NeverAnswers (.rbWr b w) s .badstate ∧ NeverAnswers (.rbWrb b w) s .badstate)

/-- RB.BEGIN on an unbound buffer, with a word-aligned address and a CLAIMED or WAITING unit that triggers no
other bound buffer: it binds the buffer to the unit, routes the callback to the issuing core, and leaves the
ring and the engine counters alone (43_ringbuffer.md R182). -/
def Obligations.BeginBindsTheBuffer : Prop :=
  ∀ (s : State) (b tblk tu : BitVec 4) (cb : Bool) (a : Word) (i : Idx) (x : UnitId), s.halt = false →
    b.toNat = i.val → i.val < s.cfg.nBuf → tblk.toNat = x.blk.val → tu.toNat = x.u.val → x.u.val < s.cfg.u →
    (bufOf s i).bound = false → a.toNat % 4 = 0 →
    (unitStateOf s x = .claimed ∨ unitStateOf s x = .waiting) →
    (∀ j : Idx, j ≠ i → j.val < s.cfg.nBuf → (bufOf s j).bound = true → (bufOf s j).trig ≠ x) →
    ∃ t, exec (.rbBegin b tblk tu cb a) s = .next t ∧ Answered s t s.issuer .ok 0 ∧
      OnlyChanges s t [.buffer i, .slot s.issuer, .trace] ∧
      bufOf t i = { bufOf s i with
        bound := true, trig := x, fifoAddr := a, cbEn := cb, irqCore := s.issuer.core }

/-- RB.BEGIN with any of the four causes raises TransferInitFailure: the command is answered with its code,
PDB is in HALT with code 0x83 and the issuing core recorded, and nothing else changes (43_ringbuffer.md R182,
R183; 60_exceptions.md R230, R235). -/
def Obligations.BeginThatCannotArmIsFatal : Prop :=
  ∀ (s : State) (b tblk tu : BitVec 4) (cb : Bool) (a : Word) (i : Idx) (x : UnitId), s.halt = false →
    b.toNat = i.val → i.val < s.cfg.nBuf → tblk.toNat = x.blk.val → tu.toNat = x.u.val → x.u.val < s.cfg.u →
    CannotArm s i x a →
    ∃ t, exec (.rbBegin b tblk tu cb a) s = .next t ∧ Raised .transferInitFailure s.issuer s t ∧
      t.errCode = 0x83#8 ∧ OnlyChanges s t [.error, .slot s.issuer, .trace]

/-- RB.ACK clears the pending bit of its buffer, of either direction, bound or not, and changes nothing else
(43_ringbuffer.md R190). -/
def Obligations.AckClearsThePendingBit : Prop :=
  ∀ (s : State) (b : BitVec 4) (i : Idx), s.halt = false → b.toNat = i.val → i.val < s.cfg.nBuf →
    ∃ t, exec (.rbAck b) s = .next t ∧ Answered s t s.issuer .ok 0 ∧
      OnlyChanges s t [.buffer i, .slot s.issuer, .trace] ∧
      bufOf t i = { bufOf s i with irqPend := false }

/-! ## The transfer engines -/

/-- An engine has a step exactly when its buffer is bound and its trigger unit RUNNING, whatever `halt` and
the fill of the ring are: then one word moves on the wire side and only that buffer changes; otherwise its
event leaves the state, which is how the model shows an agent without a step (log 2; 43_ringbuffer.md R185,
60_exceptions.md R236 (d)). -/
def Obligations.EngineStepsExactlyWhenRunning : Prop :=
  ∀ (s : State) (b : Idx), BuffersInv s → b.val < s.cfg.nBuf →
    ((bufOf s b).bound = true ∧ unitStateOf s (bufOf s b).trig = .running →
      ∃ t, runEvent (.xfer b) s = .next t ∧ OnlyChanges s t [.buffer b] ∧
        SameBinding (bufOf s b) (bufOf t b) ∧
        ((bufCfg s b).dir = .input →
          (bufOf t b).winPos = (bufOf s b).winPos + 1 ∧ (bufOf t b).wireOut = (bufOf s b).wireOut) ∧
        ((bufCfg s b).dir = .output →
          (bufOf t b).winPos = (bufOf s b).winPos ∧
          (bufOf t b).wireOut.length = (bufOf s b).wireOut.length + 1)) ∧
    (¬ ((bufOf s b).bound = true ∧ unitStateOf s (bufOf s b).trig = .running) →
      runEvent (.xfer b) s = .next s)

/-- One step of an input engine: the frame is accepted or dropped whole at its first word, an accepted word is
enqueued and a dropped one discarded; a drop is flagged and counted (43_ringbuffer.md R186, R188). -/
def Obligations.InputEngineMovesOneWord : Prop :=
  ∀ (s : State) (b : Idx), BuffersInv s → xferEnabled s b = true → (bufCfg s b).dir = .input →
    let g := bufOf s b
    let w := wireInWord s b g.winPos
    ∃ t, runEvent (.xfer b) s = .next t ∧ OnlyChanges s t [.buffer b] ∧ SameBinding g (bufOf t b) ∧
      (bufOf t b).winPos = g.winPos + 1 ∧ (bufOf t b).phase = (g.phase + 1) % 2 ∧
      (bufOf t b).wireOut = g.wireOut ∧ (bufOf t b).underrun = g.underrun ∧
      UnitCounted (bufCfg s b) g (bufOf t b) ∧
      (g.phase = 0 → 2 ≤ freeWords (bufCfg s b) g →
        (bufOf t b).latch = true ∧ WordEnqueued (bufCfg s b) g (bufOf t b) w ∧
        (bufOf t b).overrun = g.overrun ∧ (bufOf t b).drops = g.drops) ∧
      (g.phase = 0 → freeWords (bufCfg s b) g < 2 →
        (bufOf t b).latch = false ∧ SameRing g (bufOf t b) ∧
        (bufOf t b).overrun = true ∧ (bufOf t b).drops = g.drops + 1) ∧
      (g.phase = 1 → (bufOf t b).latch = g.latch ∧ (bufOf t b).overrun = g.overrun ∧
        (bufOf t b).drops = g.drops ∧
        (g.latch = true → WordEnqueued (bufCfg s b) g (bufOf t b) w) ∧
        (g.latch = false → SameRing g (bufOf t b)))

/-- One step of an output engine: the frame is taken from the ring or replaced by SILENCE whole, decided at
its first word; a substitution is flagged and counted (43_ringbuffer.md R187, R188). -/
def Obligations.OutputEngineMovesOneWord : Prop :=
  ∀ (s : State) (b : Idx), BuffersInv s → xferEnabled s b = true → (bufCfg s b).dir = .output →
    let g := bufOf s b
    ∃ t w, runEvent (.xfer b) s = .next t ∧ OnlyChanges s t [.buffer b] ∧ SameBinding g (bufOf t b) ∧
      (bufOf t b).wireOut = g.wireOut ++ [w] ∧ (bufOf t b).phase = (g.phase + 1) % 2 ∧
      (bufOf t b).winPos = g.winPos ∧ (bufOf t b).overrun = g.overrun ∧
      UnitCounted (bufCfg s b) g (bufOf t b) ∧
      (g.phase = 0 → 2 ≤ fill (bufCfg s b) g →
        (bufOf t b).latch = true ∧ WordDequeued (bufCfg s b) g (bufOf t b) w ∧
        (bufOf t b).underrun = g.underrun ∧ (bufOf t b).drops = g.drops) ∧
      (g.phase = 0 → fill (bufCfg s b) g < 2 →
        (bufOf t b).latch = false ∧ w = 0 ∧ SameRing g (bufOf t b) ∧
        (bufOf t b).underrun = true ∧ (bufOf t b).drops = g.drops + 1) ∧
      (g.phase = 1 → (bufOf t b).latch = g.latch ∧ (bufOf t b).underrun = g.underrun ∧
        (bufOf t b).drops = g.drops ∧
        (g.latch = true → WordDequeued (bufCfg s b) g (bufOf t b) w) ∧
        (g.latch = false → w = 0 ∧ SameRing g (bufOf t b)))

/-- Every step keeps the ring and engine invariants of every buffer: indices and counters in range, at most
RB_N words held, whole frames, every held word written (10_state.md R31, R32, R35; 43_ringbuffer.md R173,
R186 to R188). -/
def Obligations.BuffersInvIsKept : Prop :=
  ∀ s t : State, BuffersInv s → step s = .next t → BuffersInv t

/-- No step of a machine whose buffers satisfy their invariant stops: every use of Enqueue and Dequeue is
guarded, and no unwritten word is read (43_ringbuffer.md R171, R172, R173). What would stop are the faults
that the model chose for what the spec leaves undefined (logs 8 and 19). -/
def Obligations.NoStepStops : Prop :=
  ∀ s : State, BuffersInv s → ∃ t, step s = .next t

/-- While no frame has been dropped, the ring of an input buffer holds the last words taken from the wire, in
order, and every step keeps it so (43_ringbuffer.md R189). -/
def Obligations.WireWordsStayInOrder : Prop :=
  ∀ (s t : State) (b : Idx), BuffersInv s → b.val < s.cfg.nBuf → (bufCfg s b).dir = .input →
    WireInOrder s b → step s = .next t → WireInOrder t b

/-- The single-writer rule: outside reset, only its engine changes the array or the head of an IN buffer and
only a served command changes its tail, and the reverse for an OUT buffer (10_state.md R31, 20_memory.md
R72 (c)). -/
def Obligations.EachSideOwnsItsIndex : Prop :=
  ∀ (s t : State) (b : Idx), step s = .next t → (nextEvent s).1 ≠ .reset →
    ((bufCfg s b).dir = .input →
      ((bufOf t b).mem ≠ (bufOf s b).mem ∨ (bufOf t b).head ≠ (bufOf s b).head → (nextEvent s).1 = .xfer b) ∧
      ((bufOf t b).tail ≠ (bufOf s b).tail → ∃ p, (nextEvent s).1 = .serve p)) ∧
    ((bufCfg s b).dir = .output →
      ((bufOf t b).mem ≠ (bufOf s b).mem ∨ (bufOf t b).head ≠ (bufOf s b).head → ∃ p, (nextEvent s).1 = .serve p) ∧
      ((bufOf t b).tail ≠ (bufOf s b).tail → (nextEvent s).1 = .xfer b))

/-! ## The arbitrator -/

/-- ARB.CLAIM: accepted when the lock is free, taking the lock and staying outstanding; fatal Deadlock when
the issuing core holds the lock; held, with nothing changed, while the other core holds it (42_arbitrator.md
R152). -/
def Obligations.ClaimIsAcceptedHeldOrDeadlocked : Prop :=
  ∀ (s : State) (p : BitVec 4) (len : BitVec 8) (prog : Idx), s.halt = false → p.toNat = prog.val →
    prog.val < s.cfg.nProg → 1 ≤ len.toNat → len.toNat ≤ s.cfg.m →
    (s.lock.held = false →
      ∃ t, exec (.arbClaim p len) s = .next t ∧ OnlyChanges s t [.lock, .arbiter] ∧
        t.lock = ⟨true, s.issuer.core⟩ ∧ t.arbState = .scan ∧ t.arbReq = ⟨s.issuer, prog, len⟩ ∧
        t.arbSel = s.arbSel) ∧
    (s.lock.held = true → s.lock.owner = s.issuer.core →
      ∃ t, exec (.arbClaim p len) s = .next t ∧ Raised .deadlock s.issuer s t ∧
        OnlyChanges s t [.error, .slot s.issuer, .trace]) ∧
    (s.lock.held = true → s.lock.owner ≠ s.issuer.core → exec (.arbClaim p len) s = .next s)

/-- SCAN: with no FREE unit the claim fails with ResourceExhausted and the lock is released; otherwise the
first FREE unit, block 0 before block 1 and then by number, is selected (42_arbitrator.md R153). -/
def Obligations.ScanSelectsTheFirstFreeUnit : Prop :=
  ∀ s : State, s.cfg.u ≤ 16 → s.halt = false → s.arbState = .scan →
    ((∀ x, x.u.val < s.cfg.u → unitStateOf s x ≠ .free) →
      ∃ t, runEvent .arb s = .next t ∧ Raised .resourceExhausted s.arbReq.port s t ∧
        t.lock.held = false ∧ t.arbState = .idle ∧
        OnlyChanges s t [.lock, .arbiter, .error, .slot s.arbReq.port, .trace]) ∧
    (∀ x, x.u.val < s.cfg.u → unitStateOf s x = .free →
      (∀ y, y.u.val < s.cfg.u → unitStateOf s y = .free → x.blk < y.blk ∨ (x.blk = y.blk ∧ x.u ≤ y.u)) →
      ∃ t, runEvent .arb s = .next t ∧ OnlyChanges s t [.arbiter] ∧ t.arbState = .load ∧
        t.arbReq = s.arbReq ∧ t.arbSel = ⟨x, s.arbSel.offset⟩)

/-- LOAD: a resident program is not loaded again; a program that fits is placed at the lowest free word and
counted; one that does not fit ends the claim with ResourceExhausted, the lock released and nothing else
changed (42_arbitrator.md R154). -/
def Obligations.LoadPlacesTheProgramOnce : Prop :=
  ∀ s : State, s.cfg.Valid → s.halt = false → s.arbState = .load →
    let k := s.arbSel.unit.blk
    let e := entryOf s k s.arbReq.p
    let used := (blkOf s k).imemUsed
    (e.valid = true →
      ∃ t, runEvent .arb s = .next t ∧ OnlyChanges s t [.arbiter] ∧ t.arbState = .record ∧
        t.arbReq = s.arbReq ∧ t.arbSel = ⟨s.arbSel.unit, e.offset⟩) ∧
    (e.valid = false → used + s.arbReq.len.toNat ≤ s.cfg.m →
      ∃ t, runEvent .arb s = .next t ∧ OnlyChanges s t [.arbiter, .occupancy k] ∧ t.arbState = .record ∧
        t.arbReq = s.arbReq ∧ t.arbSel.unit = s.arbSel.unit ∧ t.arbSel.offset.toNat = used ∧
        (blkOf t k).imemUsed = used + s.arbReq.len.toNat ∧ (blkOf t k).loadCount = (blkOf s k).loadCount + 1) ∧
    (e.valid = false → s.cfg.m < used + s.arbReq.len.toNat →
      ∃ t, runEvent .arb s = .next t ∧ Raised .resourceExhausted s.arbReq.port s t ∧
        t.lock.held = false ∧ t.arbState = .idle ∧
        OnlyChanges s t [.lock, .arbiter, .error, .slot s.arbReq.port, .trace])

/-- RECORD: the mapping is recorded unless it was there, the unit is CLAIMED, the lock released and the claim
answered, block at bits 23:20, unit at bits 19:16, offset at bits 7:0 (42_arbitrator.md R155, 30_encoding.md
R104). That the latches of the arbitrator, which mean nothing in IDLE, keep their last values is the model's
deduction (log 11). -/
def Obligations.RecordGrantsTheClaim : Prop :=
  ∀ s : State, s.halt = false → s.arbState = .record →
    let x := s.arbSel.unit
    let e := entryOf s x.blk s.arbReq.p
    ∃ t v, runEvent .arb s = .next t ∧ Answered s t s.arbReq.port .ok v ∧
      v.toNat = x.blk.val * 2 ^ 20 + x.u.val * 2 ^ 16 + s.arbSel.offset.toNat ∧
      OnlyChanges s t [.entry x.blk s.arbReq.p, .unit x, .lock, .arbiter, .slot s.arbReq.port, .trace] ∧
      unitStateOf t x = .claimed ∧ (e.valid = true → entryOf t x.blk s.arbReq.p = e) ∧
      (e.valid = false → entryOf t x.blk s.arbReq.p = ⟨true, s.arbSel.offset, s.arbReq.len⟩) ∧
      t.lock.held = false ∧ t.arbState = .idle ∧ t.arbReq = s.arbReq ∧ t.arbSel = s.arbSel

/-- A claim presented while the lock is free, a unit is FREE and the program is resident on the unit's block
or fits there, is granted after exactly three arbitrator steps: the whole claim changes that unit, that table
entry, the block's occupancy and the arbitrator, and nothing else (42_arbitrator.md R151, R156). -/
def Obligations.ClaimIsGrantedInThreeSteps : Prop :=
  ∀ (s : State) (p : BitVec 4) (len : BitVec 8) (prog : Idx) (x : UnitId), s.cfg.Valid → s.halt = false →
    p.toNat = prog.val → prog.val < s.cfg.nProg → 1 ≤ len.toNat → len.toNat ≤ s.cfg.m →
    s.lock.held = false → x.u.val < s.cfg.u → unitStateOf s x = .free →
    (∀ y, y.u.val < s.cfg.u → unitStateOf s y = .free → x.blk < y.blk ∨ (x.blk = y.blk ∧ x.u ≤ y.u)) →
    ((entryOf s x.blk prog).valid = true ∨ (blkOf s x.blk).imemUsed + len.toNat ≤ s.cfg.m) →
    ∃ t1 t2 t3 t v, exec (.arbClaim p len) s = .next t1 ∧ runEvent .arb t1 = .next t2 ∧
      runEvent .arb t2 = .next t3 ∧ runEvent .arb t3 = .next t ∧
      Answered s t s.issuer .ok v ∧ v.extractLsb' 20 4 = BitVec.ofNat 4 x.blk.val ∧
      v.extractLsb' 16 4 = BitVec.ofFin x.u ∧ v.extractLsb' 0 8 = (entryOf t x.blk prog).offset ∧
      (entryOf t x.blk prog).valid = true ∧ unitStateOf t x = .claimed ∧
      t.lock.held = false ∧ t.arbState = .idle ∧
      OnlyChanges s t [.entry x.blk prog, .unit x, .occupancy x.blk, .lock, .arbiter, .slot s.issuer, .trace]

/-- Every step keeps the arbitrator's invariant: the lock is held exactly while a claim is in progress, by the
claim's core, and on each block the resident programs occupy disjoint places that add up to the words in use,
each loaded once (42_arbitrator.md R156, R158). -/
def Obligations.ArbInvIsKept : Prop :=
  ∀ s t : State, ArbInv s → step s = .next t → ArbInv t

/-- Outside reset a unit never goes back, and moves one place at a time through FREE, CLAIMED, WAITING,
RUNNING (10_state.md R41, 44_sync_and_loop.md R200). -/
def Obligations.UnitsOnlyMoveForward : Prop :=
  ∀ (s t : State) (x : UnitId), ArbInv s → step s = .next t → (nextEvent s).1 ≠ .reset →
    unitCode (unitStateOf t x) = unitCode (unitStateOf s x) ∨
    unitCode (unitStateOf t x) = unitCode (unitStateOf s x) + 1

/-! ## The synchronized start -/

/-- SEQ.EN moves a CLAIMED unit to WAITING and changes nothing else; on a unit in any other state it is
answered BADSTATE and changes nothing (44_sync_and_loop.md R201). -/
def Obligations.SeqEnEnablesAClaimedUnit : Prop :=
  ∀ (s : State) (blk u : BitVec 4) (x : UnitId), s.halt = false → blk.toNat = x.blk.val →
    u.toNat = x.u.val → x.u.val < s.cfg.u →
    (unitStateOf s x = .claimed →
      ∃ t, exec (.seqEn blk u) s = .next t ∧ Answered s t s.issuer .ok 0 ∧
        OnlyChanges s t [.unit x, .slot s.issuer, .trace] ∧ unitStateOf t x = .waiting) ∧
    (unitStateOf s x ≠ .claimed → IsRefused (.seqEn blk u) s .badstate)

/-- SYNC.ARM starts every WAITING unit in one transition, sets `armed`, answers how many it started, and
changes nothing else (44_sync_and_loop.md R203). -/
def Obligations.SyncArmStartsEveryWaitingUnit : Prop :=
  ∀ s : State, s.halt = false →
    ∃ t v, exec .syncArm s = .next t ∧ Answered s t s.issuer .ok v ∧
      v.toNat = (Finset.univ.filter (fun y : Blk × Idx =>
        y.2.val < s.cfg.u ∧ unitStateOf s ⟨y.1, y.2⟩ = .waiting)).card ∧
      t.armed = true ∧
      (∀ x, x.u.val < s.cfg.u → unitStateOf s x = .waiting → unitStateOf t x = .running) ∧
      (∀ x, ¬ (x.u.val < s.cfg.u ∧ unitStateOf s x = .waiting) → unitStateOf t x = unitStateOf s x) ∧
      (∀ part, (∀ x, part ≠ .unit x) → part ∉ [.armed, .slot s.issuer, .trace] → unchanged s t part)

/-- Every step keeps: nothing runs before the first arming; a bound buffer's trigger unit exists, is claimed
and triggers no other buffer, and its address is word-aligned (10_state.md R43; 43_ringbuffer.md R182, R185). -/
def Obligations.StartInvIsKept : Prop :=
  ∀ s t : State, StartInv s → step s = .next t → StartInv t

/-! ## CSRs and interrupt lines -/

/-- The global CSRs read, in every state, halted or not, exactly the fields of 45_system.md R221. -/
def Obligations.GlobalCsrMap : Prop :=
  ∀ s : State, ∃ v0 v1 v2 v3,
    Reads (.csrRd 0x000) s v0 ∧ Reads (.csrRd 0x001) s v1 ∧ Reads (.csrRd 0x002) s v2 ∧
    Reads (.csrRd 0x003) s v3 ∧
    v0.toNat = s.halt.toNat + s.errCode.toNat * 2 ^ 8 + s.errCore.val * 2 ^ 16 ∧
    v1.toNat = s.lock.held.toNat + (if s.lock.held then s.lock.owner.val else 0) * 2 ∧
    v2.toNat = (match s.arbState with | .idle => 0 | .scan => 1 | .load => 2 | .record => 3) ∧
    v3.toNat = s.armed.toNat

/-- The per-block CSRs read exactly the fields of 45_system.md R222. -/
def Obligations.BlockCsrMap : Prop :=
  ∀ (s : State) (k : Blk), s.cfg.Valid →
    (∃ v, Reads (.csrRd (BitVec.ofNat 12 (0x010 + k.val))) s v ∧ v.toNat < 4 ^ s.cfg.u ∧
      ∀ u : Idx, u.val < s.cfg.u → v.toNat / 4 ^ u.val % 4 = unitCode (unitStateOf s ⟨k, u⟩)) ∧
    ((blkOf s k).imemUsed ≤ s.cfg.m →
      ∃ v, Reads (.csrRd (BitVec.ofNat 12 (0x012 + k.val))) s v ∧ v.toNat = (blkOf s k).imemUsed) ∧
    Reads (.csrRd (BitVec.ofNat 12 (0x014 + k.val))) s (blkOf s k).loadCount ∧
    (∀ p : Idx, p.val < s.cfg.nProg →
      ∃ v, Reads (.csrRd (BitVec.ofNat 12 (0x020 + 0x10 * k.val + p.val))) s v ∧
        v.toNat = (entryOf s k p).valid.toNat * 2 ^ 31 + (entryOf s k p).len.toNat * 2 ^ 8 +
          (entryOf s k p).offset.toNat)

/-- The per-buffer CSRs read exactly the fields of 45_system.md R223, in states whose buffers satisfy their
invariant. -/
def Obligations.BufferCsrMap : Prop :=
  ∀ (s : State) (b : Idx), BuffersInv s → b.val < s.cfg.nBuf →
    let g := bufOf s b
    let at_ (r : Nat) : Instr := .csrRd (BitVec.ofNat 12 (0x100 + 8 * b.val + r))
    ∃ v0 v1 v2 v3 v7,
      Reads (at_ 0) s v0 ∧ Reads (at_ 1) s v1 ∧ Reads (at_ 2) s v2 ∧ Reads (at_ 3) s v3 ∧
      Reads (at_ 4) s g.units ∧ Reads (at_ 5) s g.drops ∧ Reads (at_ 6) s g.fifoAddr ∧ Reads (at_ 7) s v7 ∧
      v0.toNat = g.bound.toNat + (match (bufCfg s b).dir with | .input => 0 | .output => 1) * 2 +
        g.irqPend.toNat * 2 ^ 2 + g.overrun.toNat * 2 ^ 3 + g.underrun.toNat * 2 ^ 4 + g.cbEn.toNat * 2 ^ 5 +
        g.irqCore.val * 2 ^ 6 + g.latch.toNat * 2 ^ 7 + g.phase * 2 ^ 8 ∧
      v1.toNat = g.head ∧ v2.toNat = g.tail ∧ v3.toNat = fill (bufCfg s b) g ∧
      v7.toNat = g.trig.u.val + g.trig.blk.val * 2 ^ 4 + g.ucount * 2 ^ 16

/-- CSR.RD answers BADSEL, changing nothing, exactly for the numbers that are not implemented
(45_system.md R225). -/
def Obligations.UnimplementedCsrsAreBadsel : Prop :=
  ∀ (s : State) (csr : BitVec 12), s.cfg.Valid →
    let n := csr.toNat
    let implemented := n ≤ 0x003 ∨ (0x010 ≤ n ∧ n ≤ 0x015) ∨ (0x020 ≤ n ∧ n ≤ 0x020 + s.cfg.nProg - 1) ∨
      (0x030 ≤ n ∧ n ≤ 0x030 + s.cfg.nProg - 1) ∨ (0x100 ≤ n ∧ n ≤ 0x100 + 8 * s.cfg.nBuf - 1)
    (implemented → ∃ v, Reads (.csrRd csr) s v) ∧ (¬ implemented → IsRefused (.csrRd csr) s .badsel)

/-- The interrupt line of a core is the OR, over its buffers, of pending and enabled and routed to that core
(60_exceptions.md R238). -/
def Obligations.IrqLineIsTheOrOfItsSources : Prop :=
  ∀ (s : State) (c : Core), irqLine s c = true ↔
    ∃ b : Idx, b.val < s.cfg.nBuf ∧ (bufOf s b).irqPend = true ∧ (bufOf s b).cbEn = true ∧
      (bufOf s b).irqCore = c

/-! ## Errors, HALT, reset, responses -/

/-- HALT is entered only by a SCAN that finds no FREE unit, by a LOAD of a program that is not resident and
does not fit, by an ARB.CLAIM of the core that holds the lock, and by an RB.BEGIN that one of the four causes
keeps from being armed; the error recorded is the one answered, with the core of the answered slot
(60_exceptions.md R230; 43_ringbuffer.md R182). -/
def Obligations.OnlyTheThreeErrorsEnterHalt : Prop :=
  ∀ s t : State, step s = .next t → s.halt = false → t.halt = true →
    ∃ (p : Port) (e : FatalError), Raised e p s t ∧
      (((nextEvent s).1 = .arb ∧ p = s.arbReq.port ∧ e = .resourceExhausted ∧
          ((s.arbState = .scan ∧ ∀ x, x.u.val < s.cfg.u → unitStateOf s x ≠ .free) ∨
           (s.arbState = .load ∧ (entryOf s s.arbSel.unit.blk s.arbReq.p).valid = false ∧
              s.cfg.m < (blkOf s s.arbSel.unit.blk).imemUsed + s.arbReq.len.toNat))) ∨
       ((nextEvent s).1 = .serve p ∧ ∃ c, slotOf s p = some c ∧
          ((e = .deadlock ∧ s.lock.held = true ∧ s.lock.owner = p.core ∧
              ∃ q len, decode c.cw c.data = .ok (.arbClaim q len)) ∨
           (e = .transferInitFailure ∧
              ∃ (b tblk tu : BitVec 4) (cb : Bool) (a : Word) (i : Idx) (x : UnitId),
                decode c.cw c.data = .ok (.rbBegin b tblk tu cb a) ∧ b.toNat = i.val ∧ i.val < s.cfg.nBuf ∧
                tblk.toNat = x.blk.val ∧ tu.toNat = x.u.val ∧ x.u.val < s.cfg.u ∧ CannotArm s i x a))))

/-- HALT is permanent: no step but reset leaves it or changes the recorded error, and in HALT only the
enabled engines change anything besides the command slots and the responses (60_exceptions.md R236, R237). -/
def Obligations.HaltIsPermanent : Prop :=
  ∀ s t : State, step s = .next t → s.halt = true → (nextEvent s).1 ≠ .reset →
    (∀ part, (∀ p, part ≠ .slot p) → (∀ b, part ≠ .buffer b) → part ∉ [.trace, .issuer, .schedule] →
      unchanged s t part) ∧
    (∀ b, bufOf t b ≠ bufOf s b → (nextEvent s).1 = .xfer b ∧ xferEnabled s b = true)

/-- Every step keeps the error state legal: no code outside HALT, one of the three codes in HALT (10_state.md
R44). -/
def Obligations.ErrorInvIsKept : Prop :=
  ∀ s t : State, ErrorInv s → step s = .next t → ErrorInv t

/-- Each step delivers at most one response, to a slot that held a command and is empty afterwards, with
`rdata` 0 unless the status is OK; outside reset no other slot loses its command (30_encoding.md R93, 10_state.md
R45, 60_exceptions.md R235). That the commands outstanding at the entry into HALT are answered each in a step
of its own, so that one step answers at most one, is the model's deduction (log 5). -/
def Obligations.AStepAnswersAtMostOneCommand : Prop :=
  ∀ s t : State, ArbInv s → step s = .next t →
    (t.trace = s.trace ∧
      ((nextEvent s).1 ≠ .reset → ∀ p, slotOf s p ≠ none → slotOf t p = slotOf s p)) ∨
    (∃ r : Response, t.trace = s.trace ++ [r] ∧ slotOf s r.port ≠ none ∧ slotOf t r.port = none ∧
      (r.status ≠ .ok → r.rdata = 0) ∧ ∀ p, p ≠ r.port → slotOf t p = slotOf s p)

/-- A command is presented on an empty slot, which then holds it, and nothing else changes (10_state.md R45).
That the presentation only fills the slot, the command being executed in a later step, is the model's deduction
(log 4); that an occupied slot takes nothing and the state stays is its choice (log 16). -/
def Obligations.PresentingFillsAnEmptySlot : Prop :=
  ∀ (s : State) (p : Port) (c : Command),
    (slotOf s p = none →
      ∃ t, runEvent (.present p c) s = .next t ∧ slotOf t p = some c ∧ OnlyChanges s t [.slot p]) ∧
    (slotOf s p ≠ none → runEvent (.present p c) s = .next s)

/-- The reset input gives every piece of state its reset value (10_state.md R46, with `lock.owner` of R40;
70_reset_and_hazards.md R260). What the spec leaves unspecified, `coef` and `mem`, is not stated, nor is the slot
of `arb_req`, whose value is the model's choice (log 24). -/
def Obligations.ResetGivesTheResetValues : Prop :=
  ∀ s : State, ∃ t, runEvent .reset s = .next t ∧ t.cfg = s.cfg ∧
    (∀ ch i, (∀ k : Fin 5, (stageOf t ch i).cval[k] = false) ∧ (stageOf t ch i).x1 = 0 ∧
      (stageOf t ch i).x2 = 0 ∧ (stageOf t ch i).y1 = 0 ∧ (stageOf t ch i).y2 = 0 ∧ (stageOf t ch i).rem = 0) ∧
    (∀ b, (bufOf t b).head = 0 ∧ (bufOf t b).tail = 0 ∧ (bufOf t b).bound = false ∧ (bufOf t b).trig = ⟨0, 0⟩ ∧
      (bufOf t b).fifoAddr = 0 ∧ (bufOf t b).cbEn = false ∧ (bufOf t b).irqCore = 0 ∧
      (bufOf t b).irqPend = false ∧ (bufOf t b).overrun = false ∧ (bufOf t b).underrun = false ∧
      (bufOf t b).phase = 0 ∧ (bufOf t b).latch = false ∧ (bufOf t b).ucount = 0 ∧ (bufOf t b).units = 0 ∧
      (bufOf t b).drops = 0 ∧ (bufOf t b).winPos = 0 ∧ (bufOf t b).wireOut = []) ∧
    (∀ k p, entryOf t k p = ⟨false, 0, 0⟩) ∧
    (∀ k, (blkOf t k).imemUsed = 0 ∧ (blkOf t k).loadCount = 0) ∧ t.lock.held = false ∧
    t.lock.owner = 0 ∧ (∀ x, unitStateOf t x = .free) ∧ t.arbState = .idle ∧ t.arbReq.port.core = 0 ∧
    t.arbReq.p = 0 ∧ t.arbReq.len = 0 ∧
    t.arbSel = ⟨⟨0, 0⟩, 0⟩ ∧ t.armed = false ∧ t.halt = false ∧ t.errCode = 0 ∧ t.errCore = 0 ∧
    (∀ p, slotOf t p = none)

/-- The invariants hold right after reset, under every legal configuration (10_state.md R46). -/
def Obligations.InvariantsHoldAtReset : Prop :=
  ∀ c : Config, c.Valid →
    RemaindersInRange (State.resetWith c) ∧ BuffersInv (State.resetWith c) ∧ ArbInv (State.resetWith c) ∧
    StartInv (State.resetWith c) ∧ ErrorInv (State.resetWith c) ∧
    ∀ b, (bufCfg (State.resetWith c) b).dir = .input → WireInOrder (State.resetWith c) b

/-- No agent has an enabled step in the reset state: it is stable until a command arrives
(70_reset_and_hazards.md R261). That the event of an agent without a step leaves the state is the model's
choice (log 2). -/
def Obligations.ResetStateIsStable : Prop :=
  ∀ (c : Config) (e : Event), (e = .arb ∨ (∃ b, e = .xfer b) ∨ ∃ p, e = .serve p) →
    runEvent e (State.resetWith c) = .next (State.resetWith c)
end

