-- ==== Sys2Proof/Laws/State.lean ====
section
/-! SUPPORT. One lemma per field per update of State, each true by rfl: later proofs rewrite with these and
unfold no record update. -/

namespace Sys2Proof.Machine

variable (s : State)

/-! Writing one stage leaves every other field. -/

@[simp] theorem setStage_cfg (ch : Chan) (i : Idx) (x : Stage) : (setStage s ch i x).cfg = s.cfg := rfl
@[simp] theorem setStage_bufs (ch : Chan) (i : Idx) (x : Stage) : (setStage s ch i x).bufs = s.bufs := rfl
@[simp] theorem setStage_blks (ch : Chan) (i : Idx) (x : Stage) : (setStage s ch i x).blks = s.blks := rfl
@[simp] theorem setStage_lock (ch : Chan) (i : Idx) (x : Stage) : (setStage s ch i x).lock = s.lock := rfl
@[simp] theorem setStage_arbState (ch : Chan) (i : Idx) (x : Stage) : (setStage s ch i x).arbState = s.arbState := rfl
@[simp] theorem setStage_arbReq (ch : Chan) (i : Idx) (x : Stage) : (setStage s ch i x).arbReq = s.arbReq := rfl
@[simp] theorem setStage_arbSel (ch : Chan) (i : Idx) (x : Stage) : (setStage s ch i x).arbSel = s.arbSel := rfl
@[simp] theorem setStage_armed (ch : Chan) (i : Idx) (x : Stage) : (setStage s ch i x).armed = s.armed := rfl
@[simp] theorem setStage_halt (ch : Chan) (i : Idx) (x : Stage) : (setStage s ch i x).halt = s.halt := rfl
@[simp] theorem setStage_errCode (ch : Chan) (i : Idx) (x : Stage) : (setStage s ch i x).errCode = s.errCode := rfl
@[simp] theorem setStage_errCore (ch : Chan) (i : Idx) (x : Stage) : (setStage s ch i x).errCore = s.errCore := rfl
@[simp] theorem setStage_slots (ch : Chan) (i : Idx) (x : Stage) : (setStage s ch i x).slots = s.slots := rfl
@[simp] theorem setStage_issuer (ch : Chan) (i : Idx) (x : Stage) : (setStage s ch i x).issuer = s.issuer := rfl
@[simp] theorem setStage_trace (ch : Chan) (i : Idx) (x : Stage) : (setStage s ch i x).trace = s.trace := rfl
@[simp] theorem setStage_agenda (ch : Chan) (i : Idx) (x : Stage) : (setStage s ch i x).agenda = s.agenda := rfl
@[simp] theorem setStage_envPos (ch : Chan) (i : Idx) (x : Stage) : (setStage s ch i x).envPos = s.envPos := rfl
@[simp] theorem setStage_era (ch : Chan) (i : Idx) (x : Stage) : (setStage s ch i x).era = s.era := rfl

/-! Writing a channel leaves every other field. -/

@[simp] theorem setChannel_cfg (ch : Chan) (f : Vector Stage 16) : (setChannel s ch f).cfg = s.cfg := rfl
@[simp] theorem setChannel_bufs (ch : Chan) (f : Vector Stage 16) : (setChannel s ch f).bufs = s.bufs := rfl
@[simp] theorem setChannel_blks (ch : Chan) (f : Vector Stage 16) : (setChannel s ch f).blks = s.blks := rfl
@[simp] theorem setChannel_lock (ch : Chan) (f : Vector Stage 16) : (setChannel s ch f).lock = s.lock := rfl
@[simp] theorem setChannel_arbState (ch : Chan) (f : Vector Stage 16) : (setChannel s ch f).arbState = s.arbState := rfl
@[simp] theorem setChannel_arbReq (ch : Chan) (f : Vector Stage 16) : (setChannel s ch f).arbReq = s.arbReq := rfl
@[simp] theorem setChannel_arbSel (ch : Chan) (f : Vector Stage 16) : (setChannel s ch f).arbSel = s.arbSel := rfl
@[simp] theorem setChannel_armed (ch : Chan) (f : Vector Stage 16) : (setChannel s ch f).armed = s.armed := rfl
@[simp] theorem setChannel_halt (ch : Chan) (f : Vector Stage 16) : (setChannel s ch f).halt = s.halt := rfl
@[simp] theorem setChannel_errCode (ch : Chan) (f : Vector Stage 16) : (setChannel s ch f).errCode = s.errCode := rfl
@[simp] theorem setChannel_errCore (ch : Chan) (f : Vector Stage 16) : (setChannel s ch f).errCore = s.errCore := rfl
@[simp] theorem setChannel_slots (ch : Chan) (f : Vector Stage 16) : (setChannel s ch f).slots = s.slots := rfl
@[simp] theorem setChannel_issuer (ch : Chan) (f : Vector Stage 16) : (setChannel s ch f).issuer = s.issuer := rfl
@[simp] theorem setChannel_trace (ch : Chan) (f : Vector Stage 16) : (setChannel s ch f).trace = s.trace := rfl
@[simp] theorem setChannel_agenda (ch : Chan) (f : Vector Stage 16) : (setChannel s ch f).agenda = s.agenda := rfl
@[simp] theorem setChannel_envPos (ch : Chan) (f : Vector Stage 16) : (setChannel s ch f).envPos = s.envPos := rfl
@[simp] theorem setChannel_era (ch : Chan) (f : Vector Stage 16) : (setChannel s ch f).era = s.era := rfl

/-! Writing a buffer leaves every other field. -/

@[simp] theorem setBuf_cfg (b : Idx) (x : Buffer) : (setBuf s b x).cfg = s.cfg := rfl
@[simp] theorem setBuf_filt (b : Idx) (x : Buffer) : (setBuf s b x).filt = s.filt := rfl
@[simp] theorem setBuf_blks (b : Idx) (x : Buffer) : (setBuf s b x).blks = s.blks := rfl
@[simp] theorem setBuf_lock (b : Idx) (x : Buffer) : (setBuf s b x).lock = s.lock := rfl
@[simp] theorem setBuf_arbState (b : Idx) (x : Buffer) : (setBuf s b x).arbState = s.arbState := rfl
@[simp] theorem setBuf_arbReq (b : Idx) (x : Buffer) : (setBuf s b x).arbReq = s.arbReq := rfl
@[simp] theorem setBuf_arbSel (b : Idx) (x : Buffer) : (setBuf s b x).arbSel = s.arbSel := rfl
@[simp] theorem setBuf_armed (b : Idx) (x : Buffer) : (setBuf s b x).armed = s.armed := rfl
@[simp] theorem setBuf_halt (b : Idx) (x : Buffer) : (setBuf s b x).halt = s.halt := rfl
@[simp] theorem setBuf_errCode (b : Idx) (x : Buffer) : (setBuf s b x).errCode = s.errCode := rfl
@[simp] theorem setBuf_errCore (b : Idx) (x : Buffer) : (setBuf s b x).errCore = s.errCore := rfl
@[simp] theorem setBuf_slots (b : Idx) (x : Buffer) : (setBuf s b x).slots = s.slots := rfl
@[simp] theorem setBuf_issuer (b : Idx) (x : Buffer) : (setBuf s b x).issuer = s.issuer := rfl
@[simp] theorem setBuf_trace (b : Idx) (x : Buffer) : (setBuf s b x).trace = s.trace := rfl
@[simp] theorem setBuf_agenda (b : Idx) (x : Buffer) : (setBuf s b x).agenda = s.agenda := rfl
@[simp] theorem setBuf_envPos (b : Idx) (x : Buffer) : (setBuf s b x).envPos = s.envPos := rfl
@[simp] theorem setBuf_era (b : Idx) (x : Buffer) : (setBuf s b x).era = s.era := rfl

/-! Writing a block leaves every other field. -/

@[simp] theorem setBlk_cfg (k : Blk) (x : Block) : (setBlk s k x).cfg = s.cfg := rfl
@[simp] theorem setBlk_filt (k : Blk) (x : Block) : (setBlk s k x).filt = s.filt := rfl
@[simp] theorem setBlk_bufs (k : Blk) (x : Block) : (setBlk s k x).bufs = s.bufs := rfl
@[simp] theorem setBlk_lock (k : Blk) (x : Block) : (setBlk s k x).lock = s.lock := rfl
@[simp] theorem setBlk_arbState (k : Blk) (x : Block) : (setBlk s k x).arbState = s.arbState := rfl
@[simp] theorem setBlk_arbReq (k : Blk) (x : Block) : (setBlk s k x).arbReq = s.arbReq := rfl
@[simp] theorem setBlk_arbSel (k : Blk) (x : Block) : (setBlk s k x).arbSel = s.arbSel := rfl
@[simp] theorem setBlk_armed (k : Blk) (x : Block) : (setBlk s k x).armed = s.armed := rfl
@[simp] theorem setBlk_halt (k : Blk) (x : Block) : (setBlk s k x).halt = s.halt := rfl
@[simp] theorem setBlk_errCode (k : Blk) (x : Block) : (setBlk s k x).errCode = s.errCode := rfl
@[simp] theorem setBlk_errCore (k : Blk) (x : Block) : (setBlk s k x).errCore = s.errCore := rfl
@[simp] theorem setBlk_slots (k : Blk) (x : Block) : (setBlk s k x).slots = s.slots := rfl
@[simp] theorem setBlk_issuer (k : Blk) (x : Block) : (setBlk s k x).issuer = s.issuer := rfl
@[simp] theorem setBlk_trace (k : Blk) (x : Block) : (setBlk s k x).trace = s.trace := rfl
@[simp] theorem setBlk_agenda (k : Blk) (x : Block) : (setBlk s k x).agenda = s.agenda := rfl
@[simp] theorem setBlk_envPos (k : Blk) (x : Block) : (setBlk s k x).envPos = s.envPos := rfl
@[simp] theorem setBlk_era (k : Blk) (x : Block) : (setBlk s k x).era = s.era := rfl

/-! Writing a unit leaves every other field. -/

@[simp] theorem setUnit_cfg (u : UnitId) (v : UnitState) : (setUnit s u v).cfg = s.cfg := rfl
@[simp] theorem setUnit_filt (u : UnitId) (v : UnitState) : (setUnit s u v).filt = s.filt := rfl
@[simp] theorem setUnit_bufs (u : UnitId) (v : UnitState) : (setUnit s u v).bufs = s.bufs := rfl
@[simp] theorem setUnit_lock (u : UnitId) (v : UnitState) : (setUnit s u v).lock = s.lock := rfl
@[simp] theorem setUnit_arbState (u : UnitId) (v : UnitState) : (setUnit s u v).arbState = s.arbState := rfl
@[simp] theorem setUnit_arbReq (u : UnitId) (v : UnitState) : (setUnit s u v).arbReq = s.arbReq := rfl
@[simp] theorem setUnit_arbSel (u : UnitId) (v : UnitState) : (setUnit s u v).arbSel = s.arbSel := rfl
@[simp] theorem setUnit_armed (u : UnitId) (v : UnitState) : (setUnit s u v).armed = s.armed := rfl
@[simp] theorem setUnit_halt (u : UnitId) (v : UnitState) : (setUnit s u v).halt = s.halt := rfl
@[simp] theorem setUnit_errCode (u : UnitId) (v : UnitState) : (setUnit s u v).errCode = s.errCode := rfl
@[simp] theorem setUnit_errCore (u : UnitId) (v : UnitState) : (setUnit s u v).errCore = s.errCore := rfl
@[simp] theorem setUnit_slots (u : UnitId) (v : UnitState) : (setUnit s u v).slots = s.slots := rfl
@[simp] theorem setUnit_issuer (u : UnitId) (v : UnitState) : (setUnit s u v).issuer = s.issuer := rfl
@[simp] theorem setUnit_trace (u : UnitId) (v : UnitState) : (setUnit s u v).trace = s.trace := rfl
@[simp] theorem setUnit_agenda (u : UnitId) (v : UnitState) : (setUnit s u v).agenda = s.agenda := rfl
@[simp] theorem setUnit_envPos (u : UnitId) (v : UnitState) : (setUnit s u v).envPos = s.envPos := rfl
@[simp] theorem setUnit_era (u : UnitId) (v : UnitState) : (setUnit s u v).era = s.era := rfl

/-! Writing a slot leaves every other field. -/

@[simp] theorem setSlot_cfg (p : Port) (c : Option Command) : (setSlot s p c).cfg = s.cfg := rfl
@[simp] theorem setSlot_filt (p : Port) (c : Option Command) : (setSlot s p c).filt = s.filt := rfl
@[simp] theorem setSlot_bufs (p : Port) (c : Option Command) : (setSlot s p c).bufs = s.bufs := rfl
@[simp] theorem setSlot_blks (p : Port) (c : Option Command) : (setSlot s p c).blks = s.blks := rfl
@[simp] theorem setSlot_lock (p : Port) (c : Option Command) : (setSlot s p c).lock = s.lock := rfl
@[simp] theorem setSlot_arbState (p : Port) (c : Option Command) : (setSlot s p c).arbState = s.arbState := rfl
@[simp] theorem setSlot_arbReq (p : Port) (c : Option Command) : (setSlot s p c).arbReq = s.arbReq := rfl
@[simp] theorem setSlot_arbSel (p : Port) (c : Option Command) : (setSlot s p c).arbSel = s.arbSel := rfl
@[simp] theorem setSlot_armed (p : Port) (c : Option Command) : (setSlot s p c).armed = s.armed := rfl
@[simp] theorem setSlot_halt (p : Port) (c : Option Command) : (setSlot s p c).halt = s.halt := rfl
@[simp] theorem setSlot_errCode (p : Port) (c : Option Command) : (setSlot s p c).errCode = s.errCode := rfl
@[simp] theorem setSlot_errCore (p : Port) (c : Option Command) : (setSlot s p c).errCore = s.errCore := rfl
@[simp] theorem setSlot_issuer (p : Port) (c : Option Command) : (setSlot s p c).issuer = s.issuer := rfl
@[simp] theorem setSlot_trace (p : Port) (c : Option Command) : (setSlot s p c).trace = s.trace := rfl
@[simp] theorem setSlot_agenda (p : Port) (c : Option Command) : (setSlot s p c).agenda = s.agenda := rfl
@[simp] theorem setSlot_envPos (p : Port) (c : Option Command) : (setSlot s p c).envPos = s.envPos := rfl
@[simp] theorem setSlot_era (p : Port) (c : Option Command) : (setSlot s p c).era = s.era := rfl

/-! A response writes the slot and the trace. -/

@[simp] theorem respondTo_cfg (p : Port) (st : Status) (r : Word) : (respondTo p st r s).cfg = s.cfg := rfl
@[simp] theorem respondTo_filt (p : Port) (st : Status) (r : Word) : (respondTo p st r s).filt = s.filt := rfl
@[simp] theorem respondTo_bufs (p : Port) (st : Status) (r : Word) : (respondTo p st r s).bufs = s.bufs := rfl
@[simp] theorem respondTo_blks (p : Port) (st : Status) (r : Word) : (respondTo p st r s).blks = s.blks := rfl
@[simp] theorem respondTo_lock (p : Port) (st : Status) (r : Word) : (respondTo p st r s).lock = s.lock := rfl
@[simp] theorem respondTo_arbState (p : Port) (st : Status) (r : Word) : (respondTo p st r s).arbState = s.arbState := rfl
@[simp] theorem respondTo_arbReq (p : Port) (st : Status) (r : Word) : (respondTo p st r s).arbReq = s.arbReq := rfl
@[simp] theorem respondTo_arbSel (p : Port) (st : Status) (r : Word) : (respondTo p st r s).arbSel = s.arbSel := rfl
@[simp] theorem respondTo_armed (p : Port) (st : Status) (r : Word) : (respondTo p st r s).armed = s.armed := rfl
@[simp] theorem respondTo_halt (p : Port) (st : Status) (r : Word) : (respondTo p st r s).halt = s.halt := rfl
@[simp] theorem respondTo_errCode (p : Port) (st : Status) (r : Word) : (respondTo p st r s).errCode = s.errCode := rfl
@[simp] theorem respondTo_errCore (p : Port) (st : Status) (r : Word) : (respondTo p st r s).errCore = s.errCore := rfl
@[simp] theorem respondTo_issuer (p : Port) (st : Status) (r : Word) : (respondTo p st r s).issuer = s.issuer := rfl
@[simp] theorem respondTo_agenda (p : Port) (st : Status) (r : Word) : (respondTo p st r s).agenda = s.agenda := rfl
@[simp] theorem respondTo_envPos (p : Port) (st : Status) (r : Word) : (respondTo p st r s).envPos = s.envPos := rfl
@[simp] theorem respondTo_era (p : Port) (st : Status) (r : Word) : (respondTo p st r s).era = s.era := rfl
@[simp] theorem respondTo_trace (p : Port) (st : Status) (r : Word) : (respondTo p st r s).trace = s.trace ++ [⟨p, st, r⟩] := rfl

/-! A response writes the slot and the trace. -/

@[simp] theorem respondOk_cfg (r : Word) : (respondOk r s).cfg = s.cfg := rfl
@[simp] theorem respondOk_filt (r : Word) : (respondOk r s).filt = s.filt := rfl
@[simp] theorem respondOk_bufs (r : Word) : (respondOk r s).bufs = s.bufs := rfl
@[simp] theorem respondOk_blks (r : Word) : (respondOk r s).blks = s.blks := rfl
@[simp] theorem respondOk_lock (r : Word) : (respondOk r s).lock = s.lock := rfl
@[simp] theorem respondOk_arbState (r : Word) : (respondOk r s).arbState = s.arbState := rfl
@[simp] theorem respondOk_arbReq (r : Word) : (respondOk r s).arbReq = s.arbReq := rfl
@[simp] theorem respondOk_arbSel (r : Word) : (respondOk r s).arbSel = s.arbSel := rfl
@[simp] theorem respondOk_armed (r : Word) : (respondOk r s).armed = s.armed := rfl
@[simp] theorem respondOk_halt (r : Word) : (respondOk r s).halt = s.halt := rfl
@[simp] theorem respondOk_errCode (r : Word) : (respondOk r s).errCode = s.errCode := rfl
@[simp] theorem respondOk_errCore (r : Word) : (respondOk r s).errCore = s.errCore := rfl
@[simp] theorem respondOk_issuer (r : Word) : (respondOk r s).issuer = s.issuer := rfl
@[simp] theorem respondOk_agenda (r : Word) : (respondOk r s).agenda = s.agenda := rfl
@[simp] theorem respondOk_envPos (r : Word) : (respondOk r s).envPos = s.envPos := rfl
@[simp] theorem respondOk_era (r : Word) : (respondOk r s).era = s.era := rfl
@[simp] theorem respondOk_trace (r : Word) : (respondOk r s).trace = s.trace ++ [⟨s.issuer, .ok, r⟩] := rfl

/-! A response writes the slot and the trace. -/

@[simp] theorem refuse_cfg (st : Status) : (refuse st s).cfg = s.cfg := rfl
@[simp] theorem refuse_filt (st : Status) : (refuse st s).filt = s.filt := rfl
@[simp] theorem refuse_bufs (st : Status) : (refuse st s).bufs = s.bufs := rfl
@[simp] theorem refuse_blks (st : Status) : (refuse st s).blks = s.blks := rfl
@[simp] theorem refuse_lock (st : Status) : (refuse st s).lock = s.lock := rfl
@[simp] theorem refuse_arbState (st : Status) : (refuse st s).arbState = s.arbState := rfl
@[simp] theorem refuse_arbReq (st : Status) : (refuse st s).arbReq = s.arbReq := rfl
@[simp] theorem refuse_arbSel (st : Status) : (refuse st s).arbSel = s.arbSel := rfl
@[simp] theorem refuse_armed (st : Status) : (refuse st s).armed = s.armed := rfl
@[simp] theorem refuse_halt (st : Status) : (refuse st s).halt = s.halt := rfl
@[simp] theorem refuse_errCode (st : Status) : (refuse st s).errCode = s.errCode := rfl
@[simp] theorem refuse_errCore (st : Status) : (refuse st s).errCore = s.errCore := rfl
@[simp] theorem refuse_issuer (st : Status) : (refuse st s).issuer = s.issuer := rfl
@[simp] theorem refuse_agenda (st : Status) : (refuse st s).agenda = s.agenda := rfl
@[simp] theorem refuse_envPos (st : Status) : (refuse st s).envPos = s.envPos := rfl
@[simp] theorem refuse_era (st : Status) : (refuse st s).era = s.era := rfl
@[simp] theorem refuse_trace (st : Status) : (refuse st s).trace = s.trace ++ [⟨s.issuer, st, 0⟩] := rfl

/-! Accepting a claim writes the lock and the arbitrator. -/

@[simp] theorem acceptClaim_cfg (p : Port) (g : Idx) (n : BitVec 8) : (acceptClaim p g n s).cfg = s.cfg := rfl
@[simp] theorem acceptClaim_filt (p : Port) (g : Idx) (n : BitVec 8) : (acceptClaim p g n s).filt = s.filt := rfl
@[simp] theorem acceptClaim_bufs (p : Port) (g : Idx) (n : BitVec 8) : (acceptClaim p g n s).bufs = s.bufs := rfl
@[simp] theorem acceptClaim_blks (p : Port) (g : Idx) (n : BitVec 8) : (acceptClaim p g n s).blks = s.blks := rfl
@[simp] theorem acceptClaim_arbSel (p : Port) (g : Idx) (n : BitVec 8) : (acceptClaim p g n s).arbSel = s.arbSel := rfl
@[simp] theorem acceptClaim_armed (p : Port) (g : Idx) (n : BitVec 8) : (acceptClaim p g n s).armed = s.armed := rfl
@[simp] theorem acceptClaim_halt (p : Port) (g : Idx) (n : BitVec 8) : (acceptClaim p g n s).halt = s.halt := rfl
@[simp] theorem acceptClaim_errCode (p : Port) (g : Idx) (n : BitVec 8) : (acceptClaim p g n s).errCode = s.errCode := rfl
@[simp] theorem acceptClaim_errCore (p : Port) (g : Idx) (n : BitVec 8) : (acceptClaim p g n s).errCore = s.errCore := rfl
@[simp] theorem acceptClaim_slots (p : Port) (g : Idx) (n : BitVec 8) : (acceptClaim p g n s).slots = s.slots := rfl
@[simp] theorem acceptClaim_issuer (p : Port) (g : Idx) (n : BitVec 8) : (acceptClaim p g n s).issuer = s.issuer := rfl
@[simp] theorem acceptClaim_trace (p : Port) (g : Idx) (n : BitVec 8) : (acceptClaim p g n s).trace = s.trace := rfl
@[simp] theorem acceptClaim_agenda (p : Port) (g : Idx) (n : BitVec 8) : (acceptClaim p g n s).agenda = s.agenda := rfl
@[simp] theorem acceptClaim_envPos (p : Port) (g : Idx) (n : BitVec 8) : (acceptClaim p g n s).envPos = s.envPos := rfl
@[simp] theorem acceptClaim_era (p : Port) (g : Idx) (n : BitVec 8) : (acceptClaim p g n s).era = s.era := rfl
@[simp] theorem acceptClaim_arbState (p : Port) (g : Idx) (n : BitVec 8) : (acceptClaim p g n s).arbState = .scan := rfl
@[simp] theorem acceptClaim_arbReq (p : Port) (g : Idx) (n : BitVec 8) : (acceptClaim p g n s).arbReq = ⟨p, g, n⟩ := rfl
@[simp] theorem acceptClaim_lock (p : Port) (g : Idx) (n : BitVec 8) : (acceptClaim p g n s).lock = ⟨true, p.core⟩ := rfl

/-! Releasing the lock writes it and the arbitrator. -/

@[simp] theorem releaseLock_cfg : (releaseLock s).cfg = s.cfg := rfl
@[simp] theorem releaseLock_filt : (releaseLock s).filt = s.filt := rfl
@[simp] theorem releaseLock_bufs : (releaseLock s).bufs = s.bufs := rfl
@[simp] theorem releaseLock_blks : (releaseLock s).blks = s.blks := rfl
@[simp] theorem releaseLock_arbReq : (releaseLock s).arbReq = s.arbReq := rfl
@[simp] theorem releaseLock_arbSel : (releaseLock s).arbSel = s.arbSel := rfl
@[simp] theorem releaseLock_armed : (releaseLock s).armed = s.armed := rfl
@[simp] theorem releaseLock_halt : (releaseLock s).halt = s.halt := rfl
@[simp] theorem releaseLock_errCode : (releaseLock s).errCode = s.errCode := rfl
@[simp] theorem releaseLock_errCore : (releaseLock s).errCore = s.errCore := rfl
@[simp] theorem releaseLock_slots : (releaseLock s).slots = s.slots := rfl
@[simp] theorem releaseLock_issuer : (releaseLock s).issuer = s.issuer := rfl
@[simp] theorem releaseLock_trace : (releaseLock s).trace = s.trace := rfl
@[simp] theorem releaseLock_agenda : (releaseLock s).agenda = s.agenda := rfl
@[simp] theorem releaseLock_envPos : (releaseLock s).envPos = s.envPos := rfl
@[simp] theorem releaseLock_era : (releaseLock s).era = s.era := rfl
@[simp] theorem releaseLock_arbState : (releaseLock s).arbState = .idle := rfl
@[simp] theorem releaseLock_held : (releaseLock s).lock.held = false := rfl
@[simp] theorem releaseLock_owner : (releaseLock s).lock.owner = s.lock.owner := rfl

/-! The gate writes the units and `armed`. -/

@[simp] theorem startAll_cfg : (startAll s).cfg = s.cfg := rfl
@[simp] theorem startAll_filt : (startAll s).filt = s.filt := rfl
@[simp] theorem startAll_bufs : (startAll s).bufs = s.bufs := rfl
@[simp] theorem startAll_lock : (startAll s).lock = s.lock := rfl
@[simp] theorem startAll_arbState : (startAll s).arbState = s.arbState := rfl
@[simp] theorem startAll_arbReq : (startAll s).arbReq = s.arbReq := rfl
@[simp] theorem startAll_arbSel : (startAll s).arbSel = s.arbSel := rfl
@[simp] theorem startAll_halt : (startAll s).halt = s.halt := rfl
@[simp] theorem startAll_errCode : (startAll s).errCode = s.errCode := rfl
@[simp] theorem startAll_errCore : (startAll s).errCore = s.errCore := rfl
@[simp] theorem startAll_slots : (startAll s).slots = s.slots := rfl
@[simp] theorem startAll_issuer : (startAll s).issuer = s.issuer := rfl
@[simp] theorem startAll_trace : (startAll s).trace = s.trace := rfl
@[simp] theorem startAll_agenda : (startAll s).agenda = s.agenda := rfl
@[simp] theorem startAll_envPos : (startAll s).envPos = s.envPos := rfl
@[simp] theorem startAll_era : (startAll s).era = s.era := rfl
@[simp] theorem startAll_armed : (startAll s).armed = true := rfl

/-! Recording a fatal error writes the error state. -/

@[simp] theorem recordFatal_cfg (e : FatalError) (c : Core) : (recordFatal e c s).cfg = s.cfg := rfl
@[simp] theorem recordFatal_filt (e : FatalError) (c : Core) : (recordFatal e c s).filt = s.filt := rfl
@[simp] theorem recordFatal_bufs (e : FatalError) (c : Core) : (recordFatal e c s).bufs = s.bufs := rfl
@[simp] theorem recordFatal_blks (e : FatalError) (c : Core) : (recordFatal e c s).blks = s.blks := rfl
@[simp] theorem recordFatal_lock (e : FatalError) (c : Core) : (recordFatal e c s).lock = s.lock := rfl
@[simp] theorem recordFatal_arbState (e : FatalError) (c : Core) : (recordFatal e c s).arbState = s.arbState := rfl
@[simp] theorem recordFatal_arbReq (e : FatalError) (c : Core) : (recordFatal e c s).arbReq = s.arbReq := rfl
@[simp] theorem recordFatal_arbSel (e : FatalError) (c : Core) : (recordFatal e c s).arbSel = s.arbSel := rfl
@[simp] theorem recordFatal_armed (e : FatalError) (c : Core) : (recordFatal e c s).armed = s.armed := rfl
@[simp] theorem recordFatal_halt (e : FatalError) (c : Core) : (recordFatal e c s).halt = true := rfl
@[simp] theorem recordFatal_errCode (e : FatalError) (c : Core) : (recordFatal e c s).errCode = statusCode (fatalStatus e) := rfl
@[simp] theorem recordFatal_errCore (e : FatalError) (c : Core) : (recordFatal e c s).errCore = c := rfl
@[simp] theorem recordFatal_slots (e : FatalError) (c : Core) : (recordFatal e c s).slots = s.slots := rfl
@[simp] theorem recordFatal_issuer (e : FatalError) (c : Core) : (recordFatal e c s).issuer = s.issuer := rfl
@[simp] theorem recordFatal_trace (e : FatalError) (c : Core) : (recordFatal e c s).trace = s.trace := rfl
@[simp] theorem recordFatal_agenda (e : FatalError) (c : Core) : (recordFatal e c s).agenda = s.agenda := rfl
@[simp] theorem recordFatal_envPos (e : FatalError) (c : Core) : (recordFatal e c s).envPos = s.envPos := rfl
@[simp] theorem recordFatal_era (e : FatalError) (c : Core) : (recordFatal e c s).era = s.era := rfl

/-! Naming the issuer writes that field alone. -/

@[simp] theorem setIssuer_cfg (p : Port) : (setIssuer p s).cfg = s.cfg := rfl
@[simp] theorem setIssuer_filt (p : Port) : (setIssuer p s).filt = s.filt := rfl
@[simp] theorem setIssuer_bufs (p : Port) : (setIssuer p s).bufs = s.bufs := rfl
@[simp] theorem setIssuer_blks (p : Port) : (setIssuer p s).blks = s.blks := rfl
@[simp] theorem setIssuer_lock (p : Port) : (setIssuer p s).lock = s.lock := rfl
@[simp] theorem setIssuer_arbState (p : Port) : (setIssuer p s).arbState = s.arbState := rfl
@[simp] theorem setIssuer_arbReq (p : Port) : (setIssuer p s).arbReq = s.arbReq := rfl
@[simp] theorem setIssuer_arbSel (p : Port) : (setIssuer p s).arbSel = s.arbSel := rfl
@[simp] theorem setIssuer_armed (p : Port) : (setIssuer p s).armed = s.armed := rfl
@[simp] theorem setIssuer_halt (p : Port) : (setIssuer p s).halt = s.halt := rfl
@[simp] theorem setIssuer_errCode (p : Port) : (setIssuer p s).errCode = s.errCode := rfl
@[simp] theorem setIssuer_errCore (p : Port) : (setIssuer p s).errCore = s.errCore := rfl
@[simp] theorem setIssuer_slots (p : Port) : (setIssuer p s).slots = s.slots := rfl
@[simp] theorem setIssuer_issuer (p : Port) : (setIssuer p s).issuer = p := rfl
@[simp] theorem setIssuer_trace (p : Port) : (setIssuer p s).trace = s.trace := rfl
@[simp] theorem setIssuer_agenda (p : Port) : (setIssuer p s).agenda = s.agenda := rfl
@[simp] theorem setIssuer_envPos (p : Port) : (setIssuer p s).envPos = s.envPos := rfl
@[simp] theorem setIssuer_era (p : Port) : (setIssuer p s).era = s.era := rfl

/-! Setting the schedule writes that alone. -/

@[simp] theorem setSchedule_cfg (a : List Event) (n : Nat) : (setSchedule a n s).cfg = s.cfg := rfl
@[simp] theorem setSchedule_filt (a : List Event) (n : Nat) : (setSchedule a n s).filt = s.filt := rfl
@[simp] theorem setSchedule_bufs (a : List Event) (n : Nat) : (setSchedule a n s).bufs = s.bufs := rfl
@[simp] theorem setSchedule_blks (a : List Event) (n : Nat) : (setSchedule a n s).blks = s.blks := rfl
@[simp] theorem setSchedule_lock (a : List Event) (n : Nat) : (setSchedule a n s).lock = s.lock := rfl
@[simp] theorem setSchedule_arbState (a : List Event) (n : Nat) : (setSchedule a n s).arbState = s.arbState := rfl
@[simp] theorem setSchedule_arbReq (a : List Event) (n : Nat) : (setSchedule a n s).arbReq = s.arbReq := rfl
@[simp] theorem setSchedule_arbSel (a : List Event) (n : Nat) : (setSchedule a n s).arbSel = s.arbSel := rfl
@[simp] theorem setSchedule_armed (a : List Event) (n : Nat) : (setSchedule a n s).armed = s.armed := rfl
@[simp] theorem setSchedule_halt (a : List Event) (n : Nat) : (setSchedule a n s).halt = s.halt := rfl
@[simp] theorem setSchedule_errCode (a : List Event) (n : Nat) : (setSchedule a n s).errCode = s.errCode := rfl
@[simp] theorem setSchedule_errCore (a : List Event) (n : Nat) : (setSchedule a n s).errCore = s.errCore := rfl
@[simp] theorem setSchedule_slots (a : List Event) (n : Nat) : (setSchedule a n s).slots = s.slots := rfl
@[simp] theorem setSchedule_issuer (a : List Event) (n : Nat) : (setSchedule a n s).issuer = s.issuer := rfl
@[simp] theorem setSchedule_trace (a : List Event) (n : Nat) : (setSchedule a n s).trace = s.trace := rfl
@[simp] theorem setSchedule_agenda (a : List Event) (n : Nat) : (setSchedule a n s).agenda = a := rfl
@[simp] theorem setSchedule_envPos (a : List Event) (n : Nat) : (setSchedule a n s).envPos = n := rfl
@[simp] theorem setSchedule_era (a : List Event) (n : Nat) : (setSchedule a n s).era = s.era := rfl

/-! Moving the arbitrator writes its state and selection. -/

@[simp] theorem setArb_cfg (st : ArbState) (l : ArbSel) : (setArb st l s).cfg = s.cfg := rfl
@[simp] theorem setArb_filt (st : ArbState) (l : ArbSel) : (setArb st l s).filt = s.filt := rfl
@[simp] theorem setArb_bufs (st : ArbState) (l : ArbSel) : (setArb st l s).bufs = s.bufs := rfl
@[simp] theorem setArb_blks (st : ArbState) (l : ArbSel) : (setArb st l s).blks = s.blks := rfl
@[simp] theorem setArb_lock (st : ArbState) (l : ArbSel) : (setArb st l s).lock = s.lock := rfl
@[simp] theorem setArb_arbState (st : ArbState) (l : ArbSel) : (setArb st l s).arbState = st := rfl
@[simp] theorem setArb_arbReq (st : ArbState) (l : ArbSel) : (setArb st l s).arbReq = s.arbReq := rfl
@[simp] theorem setArb_arbSel (st : ArbState) (l : ArbSel) : (setArb st l s).arbSel = l := rfl
@[simp] theorem setArb_armed (st : ArbState) (l : ArbSel) : (setArb st l s).armed = s.armed := rfl
@[simp] theorem setArb_halt (st : ArbState) (l : ArbSel) : (setArb st l s).halt = s.halt := rfl
@[simp] theorem setArb_errCode (st : ArbState) (l : ArbSel) : (setArb st l s).errCode = s.errCode := rfl
@[simp] theorem setArb_errCore (st : ArbState) (l : ArbSel) : (setArb st l s).errCore = s.errCore := rfl
@[simp] theorem setArb_slots (st : ArbState) (l : ArbSel) : (setArb st l s).slots = s.slots := rfl
@[simp] theorem setArb_issuer (st : ArbState) (l : ArbSel) : (setArb st l s).issuer = s.issuer := rfl
@[simp] theorem setArb_trace (st : ArbState) (l : ArbSel) : (setArb st l s).trace = s.trace := rfl
@[simp] theorem setArb_agenda (st : ArbState) (l : ArbSel) : (setArb st l s).agenda = s.agenda := rfl
@[simp] theorem setArb_envPos (st : ArbState) (l : ArbSel) : (setArb st l s).envPos = s.envPos := rfl
@[simp] theorem setArb_era (st : ArbState) (l : ArbSel) : (setArb st l s).era = s.era := rfl

/-! ## What each update leaves of what is read of the state -/

@[simp] theorem bufOf_setStage_other (ch : Chan) (i : Idx) (x : Stage) (j : Idx) : bufOf (setStage s ch i x) j = bufOf s j := rfl
@[simp] theorem bufCfg_setStage_other (ch : Chan) (i : Idx) (x : Stage) (j : Idx) : bufCfg (setStage s ch i x) j = bufCfg s j := rfl
@[simp] theorem blkOf_setStage_other (ch : Chan) (i : Idx) (x : Stage) (j : Blk) : blkOf (setStage s ch i x) j = blkOf s j := rfl
@[simp] theorem unitStateOf_setStage_other (ch : Chan) (i : Idx) (x : Stage) (y : UnitId) : unitStateOf (setStage s ch i x) y = unitStateOf s y := rfl
@[simp] theorem entryOf_setStage_other (ch : Chan) (i : Idx) (x : Stage) (j : Blk) (q : Idx) : entryOf (setStage s ch i x) j q = entryOf s j q := rfl
@[simp] theorem slotOf_setStage_other (ch : Chan) (i : Idx) (x : Stage) (q : Port) : slotOf (setStage s ch i x) q = slotOf s q := rfl
@[simp] theorem bufOf_setChannel_other (ch : Chan) (f : Vector Stage 16) (j : Idx) : bufOf (setChannel s ch f) j = bufOf s j := rfl
@[simp] theorem bufCfg_setChannel_other (ch : Chan) (f : Vector Stage 16) (j : Idx) : bufCfg (setChannel s ch f) j = bufCfg s j := rfl
@[simp] theorem blkOf_setChannel_other (ch : Chan) (f : Vector Stage 16) (j : Blk) : blkOf (setChannel s ch f) j = blkOf s j := rfl
@[simp] theorem unitStateOf_setChannel_other (ch : Chan) (f : Vector Stage 16) (y : UnitId) : unitStateOf (setChannel s ch f) y = unitStateOf s y := rfl
@[simp] theorem entryOf_setChannel_other (ch : Chan) (f : Vector Stage 16) (j : Blk) (q : Idx) : entryOf (setChannel s ch f) j q = entryOf s j q := rfl
@[simp] theorem slotOf_setChannel_other (ch : Chan) (f : Vector Stage 16) (q : Port) : slotOf (setChannel s ch f) q = slotOf s q := rfl
@[simp] theorem stageOf_setBuf_other (b : Idx) (x : Buffer) (ca : Chan) (j : Idx) : stageOf (setBuf s b x) ca j = stageOf s ca j := rfl
@[simp] theorem bufCfg_setBuf_other (b : Idx) (x : Buffer) (j : Idx) : bufCfg (setBuf s b x) j = bufCfg s j := rfl
@[simp] theorem blkOf_setBuf_other (b : Idx) (x : Buffer) (j : Blk) : blkOf (setBuf s b x) j = blkOf s j := rfl
@[simp] theorem unitStateOf_setBuf_other (b : Idx) (x : Buffer) (y : UnitId) : unitStateOf (setBuf s b x) y = unitStateOf s y := rfl
@[simp] theorem entryOf_setBuf_other (b : Idx) (x : Buffer) (j : Blk) (q : Idx) : entryOf (setBuf s b x) j q = entryOf s j q := rfl
@[simp] theorem slotOf_setBuf_other (b : Idx) (x : Buffer) (q : Port) : slotOf (setBuf s b x) q = slotOf s q := rfl
@[simp] theorem stageOf_setBlk_other (k : Blk) (x : Block) (ca : Chan) (j : Idx) : stageOf (setBlk s k x) ca j = stageOf s ca j := rfl
@[simp] theorem bufOf_setBlk_other (k : Blk) (x : Block) (j : Idx) : bufOf (setBlk s k x) j = bufOf s j := rfl
@[simp] theorem bufCfg_setBlk_other (k : Blk) (x : Block) (j : Idx) : bufCfg (setBlk s k x) j = bufCfg s j := rfl
@[simp] theorem slotOf_setBlk_other (k : Blk) (x : Block) (q : Port) : slotOf (setBlk s k x) q = slotOf s q := rfl
@[simp] theorem stageOf_setUnit_other (u : UnitId) (v : UnitState) (ca : Chan) (j : Idx) : stageOf (setUnit s u v) ca j = stageOf s ca j := rfl
@[simp] theorem bufOf_setUnit_other (u : UnitId) (v : UnitState) (j : Idx) : bufOf (setUnit s u v) j = bufOf s j := rfl
@[simp] theorem bufCfg_setUnit_other (u : UnitId) (v : UnitState) (j : Idx) : bufCfg (setUnit s u v) j = bufCfg s j := rfl
@[simp] theorem slotOf_setUnit_other (u : UnitId) (v : UnitState) (q : Port) : slotOf (setUnit s u v) q = slotOf s q := rfl
@[simp] theorem stageOf_setSlot_other (p : Port) (c : Option Command) (ca : Chan) (j : Idx) : stageOf (setSlot s p c) ca j = stageOf s ca j := rfl
@[simp] theorem bufOf_setSlot_other (p : Port) (c : Option Command) (j : Idx) : bufOf (setSlot s p c) j = bufOf s j := rfl
@[simp] theorem bufCfg_setSlot_other (p : Port) (c : Option Command) (j : Idx) : bufCfg (setSlot s p c) j = bufCfg s j := rfl
@[simp] theorem blkOf_setSlot_other (p : Port) (c : Option Command) (j : Blk) : blkOf (setSlot s p c) j = blkOf s j := rfl
@[simp] theorem unitStateOf_setSlot_other (p : Port) (c : Option Command) (y : UnitId) : unitStateOf (setSlot s p c) y = unitStateOf s y := rfl
@[simp] theorem entryOf_setSlot_other (p : Port) (c : Option Command) (j : Blk) (q : Idx) : entryOf (setSlot s p c) j q = entryOf s j q := rfl
@[simp] theorem stageOf_respondTo_other (p : Port) (st : Status) (r : Word) (ca : Chan) (j : Idx) : stageOf (respondTo p st r s) ca j = stageOf s ca j := rfl
@[simp] theorem bufOf_respondTo_other (p : Port) (st : Status) (r : Word) (j : Idx) : bufOf (respondTo p st r s) j = bufOf s j := rfl
@[simp] theorem bufCfg_respondTo_other (p : Port) (st : Status) (r : Word) (j : Idx) : bufCfg (respondTo p st r s) j = bufCfg s j := rfl
@[simp] theorem blkOf_respondTo_other (p : Port) (st : Status) (r : Word) (j : Blk) : blkOf (respondTo p st r s) j = blkOf s j := rfl
@[simp] theorem unitStateOf_respondTo_other (p : Port) (st : Status) (r : Word) (y : UnitId) : unitStateOf (respondTo p st r s) y = unitStateOf s y := rfl
@[simp] theorem entryOf_respondTo_other (p : Port) (st : Status) (r : Word) (j : Blk) (q : Idx) : entryOf (respondTo p st r s) j q = entryOf s j q := rfl
@[simp] theorem stageOf_respondOk_other (r : Word) (ca : Chan) (j : Idx) : stageOf (respondOk r s) ca j = stageOf s ca j := rfl
@[simp] theorem bufOf_respondOk_other (r : Word) (j : Idx) : bufOf (respondOk r s) j = bufOf s j := rfl
@[simp] theorem bufCfg_respondOk_other (r : Word) (j : Idx) : bufCfg (respondOk r s) j = bufCfg s j := rfl
@[simp] theorem blkOf_respondOk_other (r : Word) (j : Blk) : blkOf (respondOk r s) j = blkOf s j := rfl
@[simp] theorem unitStateOf_respondOk_other (r : Word) (y : UnitId) : unitStateOf (respondOk r s) y = unitStateOf s y := rfl
@[simp] theorem entryOf_respondOk_other (r : Word) (j : Blk) (q : Idx) : entryOf (respondOk r s) j q = entryOf s j q := rfl
@[simp] theorem stageOf_refuse_other (st : Status) (ca : Chan) (j : Idx) : stageOf (refuse st s) ca j = stageOf s ca j := rfl
@[simp] theorem bufOf_refuse_other (st : Status) (j : Idx) : bufOf (refuse st s) j = bufOf s j := rfl
@[simp] theorem bufCfg_refuse_other (st : Status) (j : Idx) : bufCfg (refuse st s) j = bufCfg s j := rfl
@[simp] theorem blkOf_refuse_other (st : Status) (j : Blk) : blkOf (refuse st s) j = blkOf s j := rfl
@[simp] theorem unitStateOf_refuse_other (st : Status) (y : UnitId) : unitStateOf (refuse st s) y = unitStateOf s y := rfl
@[simp] theorem entryOf_refuse_other (st : Status) (j : Blk) (q : Idx) : entryOf (refuse st s) j q = entryOf s j q := rfl
@[simp] theorem stageOf_acceptClaim_other (p : Port) (g : Idx) (n : BitVec 8) (ca : Chan) (j : Idx) : stageOf (acceptClaim p g n s) ca j = stageOf s ca j := rfl
@[simp] theorem bufOf_acceptClaim_other (p : Port) (g : Idx) (n : BitVec 8) (j : Idx) : bufOf (acceptClaim p g n s) j = bufOf s j := rfl
@[simp] theorem bufCfg_acceptClaim_other (p : Port) (g : Idx) (n : BitVec 8) (j : Idx) : bufCfg (acceptClaim p g n s) j = bufCfg s j := rfl
@[simp] theorem blkOf_acceptClaim_other (p : Port) (g : Idx) (n : BitVec 8) (j : Blk) : blkOf (acceptClaim p g n s) j = blkOf s j := rfl
@[simp] theorem unitStateOf_acceptClaim_other (p : Port) (g : Idx) (n : BitVec 8) (y : UnitId) : unitStateOf (acceptClaim p g n s) y = unitStateOf s y := rfl
@[simp] theorem entryOf_acceptClaim_other (p : Port) (g : Idx) (n : BitVec 8) (j : Blk) (q : Idx) : entryOf (acceptClaim p g n s) j q = entryOf s j q := rfl
@[simp] theorem slotOf_acceptClaim_other (p : Port) (g : Idx) (n : BitVec 8) (q : Port) : slotOf (acceptClaim p g n s) q = slotOf s q := rfl
@[simp] theorem stageOf_releaseLock_other (ca : Chan) (j : Idx) : stageOf (releaseLock s) ca j = stageOf s ca j := rfl
@[simp] theorem bufOf_releaseLock_other (j : Idx) : bufOf (releaseLock s) j = bufOf s j := rfl
@[simp] theorem bufCfg_releaseLock_other (j : Idx) : bufCfg (releaseLock s) j = bufCfg s j := rfl
@[simp] theorem blkOf_releaseLock_other (j : Blk) : blkOf (releaseLock s) j = blkOf s j := rfl
@[simp] theorem unitStateOf_releaseLock_other (y : UnitId) : unitStateOf (releaseLock s) y = unitStateOf s y := rfl
@[simp] theorem entryOf_releaseLock_other (j : Blk) (q : Idx) : entryOf (releaseLock s) j q = entryOf s j q := rfl
@[simp] theorem slotOf_releaseLock_other (q : Port) : slotOf (releaseLock s) q = slotOf s q := rfl
@[simp] theorem stageOf_startAll_other (ca : Chan) (j : Idx) : stageOf (startAll s) ca j = stageOf s ca j := rfl
@[simp] theorem bufOf_startAll_other (j : Idx) : bufOf (startAll s) j = bufOf s j := rfl
@[simp] theorem bufCfg_startAll_other (j : Idx) : bufCfg (startAll s) j = bufCfg s j := rfl
@[simp] theorem slotOf_startAll_other (q : Port) : slotOf (startAll s) q = slotOf s q := rfl
@[simp] theorem stageOf_recordFatal_other (e : FatalError) (c : Core) (ca : Chan) (j : Idx) : stageOf (recordFatal e c s) ca j = stageOf s ca j := rfl
@[simp] theorem bufOf_recordFatal_other (e : FatalError) (c : Core) (j : Idx) : bufOf (recordFatal e c s) j = bufOf s j := rfl
@[simp] theorem bufCfg_recordFatal_other (e : FatalError) (c : Core) (j : Idx) : bufCfg (recordFatal e c s) j = bufCfg s j := rfl
@[simp] theorem blkOf_recordFatal_other (e : FatalError) (c : Core) (j : Blk) : blkOf (recordFatal e c s) j = blkOf s j := rfl
@[simp] theorem unitStateOf_recordFatal_other (e : FatalError) (c : Core) (y : UnitId) : unitStateOf (recordFatal e c s) y = unitStateOf s y := rfl
@[simp] theorem entryOf_recordFatal_other (e : FatalError) (c : Core) (j : Blk) (q : Idx) : entryOf (recordFatal e c s) j q = entryOf s j q := rfl
@[simp] theorem slotOf_recordFatal_other (e : FatalError) (c : Core) (q : Port) : slotOf (recordFatal e c s) q = slotOf s q := rfl
@[simp] theorem stageOf_setIssuer_other (p : Port) (ca : Chan) (j : Idx) : stageOf (setIssuer p s) ca j = stageOf s ca j := rfl
@[simp] theorem bufOf_setIssuer_other (p : Port) (j : Idx) : bufOf (setIssuer p s) j = bufOf s j := rfl
@[simp] theorem bufCfg_setIssuer_other (p : Port) (j : Idx) : bufCfg (setIssuer p s) j = bufCfg s j := rfl
@[simp] theorem blkOf_setIssuer_other (p : Port) (j : Blk) : blkOf (setIssuer p s) j = blkOf s j := rfl
@[simp] theorem unitStateOf_setIssuer_other (p : Port) (y : UnitId) : unitStateOf (setIssuer p s) y = unitStateOf s y := rfl
@[simp] theorem entryOf_setIssuer_other (p : Port) (j : Blk) (q : Idx) : entryOf (setIssuer p s) j q = entryOf s j q := rfl
@[simp] theorem slotOf_setIssuer_other (p : Port) (q : Port) : slotOf (setIssuer p s) q = slotOf s q := rfl
@[simp] theorem stageOf_setSchedule_other (a : List Event) (n : Nat) (ca : Chan) (j : Idx) : stageOf (setSchedule a n s) ca j = stageOf s ca j := rfl
@[simp] theorem bufOf_setSchedule_other (a : List Event) (n : Nat) (j : Idx) : bufOf (setSchedule a n s) j = bufOf s j := rfl
@[simp] theorem bufCfg_setSchedule_other (a : List Event) (n : Nat) (j : Idx) : bufCfg (setSchedule a n s) j = bufCfg s j := rfl
@[simp] theorem blkOf_setSchedule_other (a : List Event) (n : Nat) (j : Blk) : blkOf (setSchedule a n s) j = blkOf s j := rfl
@[simp] theorem unitStateOf_setSchedule_other (a : List Event) (n : Nat) (y : UnitId) : unitStateOf (setSchedule a n s) y = unitStateOf s y := rfl
@[simp] theorem entryOf_setSchedule_other (a : List Event) (n : Nat) (j : Blk) (q : Idx) : entryOf (setSchedule a n s) j q = entryOf s j q := rfl
@[simp] theorem slotOf_setSchedule_other (a : List Event) (n : Nat) (q : Port) : slotOf (setSchedule a n s) q = slotOf s q := rfl
@[simp] theorem stageOf_setArb_other (st : ArbState) (l : ArbSel) (ca : Chan) (j : Idx) : stageOf (setArb st l s) ca j = stageOf s ca j := rfl
@[simp] theorem bufOf_setArb_other (st : ArbState) (l : ArbSel) (j : Idx) : bufOf (setArb st l s) j = bufOf s j := rfl
@[simp] theorem bufCfg_setArb_other (st : ArbState) (l : ArbSel) (j : Idx) : bufCfg (setArb st l s) j = bufCfg s j := rfl
@[simp] theorem blkOf_setArb_other (st : ArbState) (l : ArbSel) (j : Blk) : blkOf (setArb st l s) j = blkOf s j := rfl
@[simp] theorem unitStateOf_setArb_other (st : ArbState) (l : ArbSel) (y : UnitId) : unitStateOf (setArb st l s) y = unitStateOf s y := rfl
@[simp] theorem entryOf_setArb_other (st : ArbState) (l : ArbSel) (j : Blk) (q : Idx) : entryOf (setArb st l s) j q = entryOf s j q := rfl
@[simp] theorem slotOf_setArb_other (st : ArbState) (l : ArbSel) (q : Port) : slotOf (setArb st l s) q = slotOf s q := rfl

/-! ## Reading a register after writing one -/

theorem stageOf_setStage (ch ch' : Chan) (i i' : Idx) (x : Stage) :
    stageOf (setStage s ch i x) ch' i' = if ch = ch' ∧ i = i' then x else stageOf s ch' i' := by
  unfold stageOf setStage
  by_cases h : ch = ch'
  · subst h
    by_cases h' : i = i'
    · subst h'; simp
    · have : i.val ≠ i'.val := fun e => h' (Fin.ext e)
      simp [h', this]
  · have : ch.val ≠ ch'.val := fun e => h (Fin.ext e)
    simp [h, this]

theorem stageOf_setChannel (ch ch' : Chan) (i : Idx) (f : Vector Stage 16) :
    stageOf (setChannel s ch f) ch' i = if ch = ch' then f[i] else stageOf s ch' i := by
  unfold stageOf setChannel
  by_cases h : ch = ch'
  · subst h; simp
  · have : ch.val ≠ ch'.val := fun e => h (Fin.ext e)
    simp [h, this]

theorem bufOf_setBuf (b b' : Idx) (x : Buffer) :
    bufOf (setBuf s b x) b' = if b = b' then x else bufOf s b' := by
  unfold bufOf setBuf
  by_cases h : b = b'
  · subst h; simp
  · have : b.val ≠ b'.val := fun e => h (Fin.ext e)
    simp [h, this]

theorem blkOf_setBlk (k k' : Blk) (x : Block) :
    blkOf (setBlk s k x) k' = if k = k' then x else blkOf s k' := by
  unfold blkOf setBlk
  by_cases h : k = k'
  · subst h; simp
  · have : k.val ≠ k'.val := fun e => h (Fin.ext e)
    simp [h, this]

theorem unitStateOf_eq (x : UnitId) : unitStateOf s x = ((blkOf s x.blk).unitState)[x.u] := rfl

theorem unitStateOf_setUnit (x y : UnitId) (v : UnitState) :
    unitStateOf (setUnit s x v) y = if x = y then v else unitStateOf s y := by
  obtain ⟨k, u⟩ := x
  obtain ⟨k', u'⟩ := y
  simp only [unitStateOf_eq, setUnit, blkOf_setBlk, UnitId.mk.injEq]
  by_cases h : k = k'
  · subst h
    by_cases h' : u = u'
    · subst h'; simp
    · have : u.val ≠ u'.val := fun e => h' (Fin.ext e)
      simp [h', this]
  · simp [h]

theorem entryOf_setUnit (x : UnitId) (v : UnitState) (k : Blk) (p : Idx) :
    entryOf (setUnit s x v) k p = entryOf s k p := by
  simp only [entryOf, setUnit, blkOf_setBlk]
  split
  · next h => subst h; rfl
  · rfl

theorem slotOf_setSlot (p q : Port) (c : Option Command) :
    slotOf (setSlot s p c) q = if p = q then c else slotOf s q := by
  obtain ⟨k, σ⟩ := p
  obtain ⟨k', σ'⟩ := q
  by_cases h : k = k'
  · subst h
    cases σ <;> cases σ' <;> simp [slotOf, setSlot, writeSlot]
  · have hv : k.val ≠ k'.val := fun e => h (Fin.ext e)
    cases σ' <;> simp [slotOf, setSlot, h, hv]

theorem slotOf_respondTo (p q : Port) (st : Status) (r : Word) :
    slotOf (respondTo p st r s) q = if p = q then none else slotOf s q :=
  slotOf_setSlot s p q none

theorem unitStateOf_startAll (x : UnitId) :
    unitStateOf (startAll s) x =
      if x.u.val < s.cfg.u ∧ unitStateOf s x = .waiting then .running else unitStateOf s x := by
  simp [unitStateOf, startAll, startUnits]
  rfl

theorem entryOf_startAll (k : Blk) (p : Idx) : entryOf (startAll s) k p = entryOf s k p := by
  simp [entryOf, blkOf, startAll, startUnits]

theorem occupancy_startAll (k : Blk) :
    (blkOf (startAll s) k).imemUsed = (blkOf s k).imemUsed ∧
      (blkOf (startAll s) k).loadCount = (blkOf s k).loadCount := by
  simp [blkOf, startAll, startUnits]

end Sys2Proof.Machine
end

