-- ==== Sys2Proof/Laws/Memory.lean ====
section
/-! SUPPORT. The ring arrays: reading after writing, and the canonical form kept by every write
(00_scope.md R7, 10_state.md R30). -/

namespace Sys2Proof.Machine

/-- Reading the index just written gives the word written. -/
@[simp] theorem Memory.read_write_same (m : Memory) (i : Nat) (w : Word) :
    Memory.read (Memory.write m i w) i = some w := by
  induction m with
  | nil => simp [Memory.write, Memory.read]
  | cons e rest ih =>
    obtain ⟨a, v⟩ := e
    simp only [Memory.write]
    split
    · simp [Memory.read]
    · split
      · simp [Memory.read]
      · next h => simp [Memory.read, Ne.symm h, ih]

/-- Writing one index leaves every other index alone. -/
theorem Memory.read_write_other (m : Memory) (i j : Nat) (w : Word) (h : j ≠ i) :
    Memory.read (Memory.write m i w) j = Memory.read m j := by
  induction m with
  | nil => simp [Memory.write, Memory.read, Ne.symm h]
  | cons e rest ih =>
    obtain ⟨a, v⟩ := e
    simp only [Memory.write]
    split
    · simp [Memory.read, Ne.symm h]
    · split
      · next h' => subst h'; simp [Memory.read, Ne.symm h]
      · simp [Memory.read, ih]

/-- Writing keeps the indices rising above any bound below them. -/
theorem Memory.risingFrom_write (m : Memory) (i : Nat) (w : Word) (lo : Option Nat)
    (h : Memory.risingFrom lo m = true) (hi : Memory.above lo i = true) :
    Memory.risingFrom lo (Memory.write m i w) = true := by
  induction m generalizing lo with
  | nil => simp [Memory.write, Memory.risingFrom, hi]
  | cons e rest ih =>
    obtain ⟨a, v⟩ := e
    simp only [Memory.risingFrom, Bool.and_eq_true] at h
    obtain ⟨hlo, hrest⟩ := h
    simp only [Memory.write]
    split
    · next hia => simp [Memory.risingFrom, hi, hrest, show Memory.above (some i) a = true by simp [Memory.above, hia]]
    · split
      · next _ he => subst he; simp [Memory.risingFrom, hi, hrest]
      · next h1 h2 =>
        have := ih (some a) hrest (by simp [Memory.above]; omega)
        simp only [Memory.risingFrom, hlo, this, Bool.and_true]

/-- Every write keeps the canonical form. -/
theorem Memory.wf_write (m : Memory) (i : Nat) (w : Word) (h : Memory.wf m = true) :
    Memory.wf (Memory.write m i w) = true :=
  Memory.risingFrom_write m i w none h rfl

/-- A write lists no index but the one written and those listed before. -/
theorem Memory.mem_write (m : Memory) (i : Nat) (w : Word) (e : Nat × Word)
    (h : e ∈ Memory.write m i w) : e = (i, w) ∨ e ∈ m := by
  induction m with
  | nil => simpa [Memory.write] using h
  | cons f rest ih =>
    obtain ⟨a, v⟩ := f
    simp only [Memory.write] at h
    split at h
    · simpa using h
    · split at h
      · rcases List.mem_cons.mp h with h | h
        · exact .inl h
        · exact .inr (List.mem_cons_of_mem _ h)
      · rcases List.mem_cons.mp h with h | h
        · exact .inr (h ▸ List.mem_cons_self)
        · rcases ih h with h | h
          · exact .inl h
          · exact .inr (List.mem_cons_of_mem _ h)

/-- What `memWrite` can do: a legal index is written. -/
theorem memWrite_ok (c : BufConfig) (m : Memory) (i : Nat) (w : Word) (h : i < c.n) :
    memWrite c m i w = .ok (Memory.write m i w) := by
  simp [memWrite, h]

/-- What `memRead` can do: a word that has been written is read. -/
theorem memRead_ok (c : BufConfig) (m : Memory) (i : Nat) (v : Word) (h : i < c.n)
    (hv : Memory.read m i = some v) : memRead c m i = .ok v := by
  simp [memRead, h, hv]

/-- `memWrite` keeps the canonical form. -/
theorem memWrite_wf (c : BufConfig) (m m' : Memory) (i : Nat) (w : Word) (hm : Memory.wf m = true)
    (h : memWrite c m i w = .ok m') : Memory.wf m' = true := by
  unfold memWrite at h
  split at h
  · cases h; exact Memory.wf_write m i w hm
  · cases h

/-- After reset every ring array is in canonical form. -/
theorem resetWith_mem_wf (c : Config) (b : Idx) : Memory.wf (bufOf (State.resetWith c) b).mem = true := by
  simp [bufOf, State.resetWith, Buffer.reset, Memory.wf, Memory.risingFrom]

end Sys2Proof.Machine
end

