-- ==== Sys2Proof/Laws/Ring.lean ====
section
/-! SUPPORT. The queue primitives: the index arithmetic in a form that omega can use, and what `enqueue` and
`dequeue` do (43_ringbuffer.md R171, R172). -/

namespace Sys2Proof.Machine

/-- For indices in range, fill is head − tail, plus 2·N when head has wrapped (10_state.md R32). -/
theorem fill_eq (c : BufConfig) (b : Buffer) (hh : b.head < 2 * c.n) (ht : b.tail < 2 * c.n) :
    fill c b = if b.tail ≤ b.head then b.head - b.tail else b.head + 2 * c.n - b.tail := by
  unfold fill
  split
  · next h =>
    rw [Int.emod_eq_of_lt (by omega) (by push_cast; omega)]
    omega
  · next h =>
    have e : ((b.head : Int) - b.tail) % ((2 * c.n : Nat) : Int) =
        ((b.head : Int) - b.tail + ((2 * c.n : Nat) : Int)) % ((2 * c.n : Nat) : Int) := by simp
    rw [e, Int.emod_eq_of_lt (by push_cast; omega) (by push_cast; omega)]
    push_cast
    omega

/-- Advancing an index in range (43_ringbuffer.md R171). -/
theorem advance_eq (c : BufConfig) (i : Nat) (h : i < 2 * c.n) :
    advance c i = if i + 1 = 2 * c.n then 0 else i + 1 := by
  unfold advance
  split
  · next e => rw [e, Nat.mod_self]
  · next e => exact Nat.mod_eq_of_lt (by omega)

theorem advance_lt (c : BufConfig) (i : Nat) (h : 0 < c.n) : advance c i < 2 * c.n :=
  Nat.mod_lt _ (by omega)

/-- An index below 2·N modulo N. -/
theorem mod_of_lt_two (n i : Nat) (h : i < 2 * n) : i % n = if i < n then i else i - n := by
  split
  · next h' => exact Nat.mod_eq_of_lt h'
  · next h' =>
    rw [Nat.mod_eq_sub_mod (by omega)]
    exact Nat.mod_eq_of_lt (by omega)

/-- The head stands `fill` words after the tail, so the next enqueue goes to the first free place. -/
theorem headIndex_eq (c : BufConfig) (b : Buffer) (hh : b.head < 2 * c.n) (ht : b.tail < 2 * c.n) :
    headIndex c b = (b.tail + fill c b) % c.n := by
  rw [fill_eq c b hh ht]
  unfold headIndex
  split
  · congr 1; omega
  · have e : b.tail + (b.head + 2 * c.n - b.tail) = b.head + c.n * 2 := by omega
    rw [e, Nat.add_mul_mod_self_left]

/-- What `enqueue` can do: with room it writes the word at head mod N and advances head. -/
theorem enqueue_ok (c : BufConfig) (b : Buffer) (v : Word) (hn : 0 < c.n) (hf : freeWords c b ≠ 0) :
    enqueue c b v = .ok { b with mem := Memory.write b.mem (headIndex c b) v, head := advance c b.head } := by
  simp [enqueue, hf, memWrite, headIndex, Nat.mod_lt _ hn]

/-- Everything `enqueue` can answer. -/
theorem enqueue_cases (c : BufConfig) (b b' : Buffer) (v : Word) (h : enqueue c b v = .ok b') :
    freeWords c b ≠ 0 ∧ headIndex c b < c.n ∧
      b' = { b with mem := Memory.write b.mem (headIndex c b) v, head := advance c b.head } := by
  unfold enqueue at h
  split at h
  · cases h
  · next hf =>
    refine ⟨hf, ?_⟩
    unfold memWrite at h
    split at h
    · cases h
    · next m hm =>
      split at hm
      · next hi => cases hm; cases h; exact ⟨hi, rfl⟩
      · cases hm

/-- What `dequeue` can do: with a written word at tail mod N it returns it and advances tail. -/
theorem dequeue_ok (c : BufConfig) (b : Buffer) (v : Word) (hn : 0 < c.n) (hf : fill c b ≠ 0)
    (hv : Memory.read b.mem (tailIndex c b) = some v) :
    dequeue c b = .ok (v, { b with tail := advance c b.tail }) := by
  have hi : tailIndex c b < c.n := Nat.mod_lt _ hn
  simp [dequeue, hf, memRead, hi, hv]

/-- Everything `dequeue` can answer. -/
theorem dequeue_cases (c : BufConfig) (b b' : Buffer) (v : Word) (h : dequeue c b = .ok (v, b')) :
    fill c b ≠ 0 ∧ Memory.read b.mem (tailIndex c b) = some v ∧ b' = { b with tail := advance c b.tail } := by
  unfold dequeue at h
  split at h
  · cases h
  · next hf =>
    refine ⟨hf, ?_⟩
    unfold memRead at h
    split at h
    · cases h
    · next w hw =>
      split at hw
      · split at hw
        · next u hu => cases hw; cases h; exact ⟨hu, rfl⟩
        · cases hw
      · cases hw

end Sys2Proof.Machine
end

