-- ==== Sys2Proof/Laws/Frames.lean ====
section
/-! SUPPORT. What each shared update changes and what it leaves alone, in the terms of Safety.lean. -/

namespace Sys2Proof.Machine

variable {s t u : State}

/-! ## Composing frames -/

theorem OnlyChanges.refl (s : State) (ps : List Part) : OnlyChanges s s ps := by
  intro part _
  cases part <;> simp [unchanged]

theorem unchanged_trans (part : Part) (h1 : unchanged s t part) (h2 : unchanged t u part) :
    unchanged s u part := by
  cases part <;> simp only [unchanged] at * <;> simp [*]

theorem OnlyChanges.trans {ps qs : List Part} (h1 : OnlyChanges s t ps) (h2 : OnlyChanges t u qs) :
    OnlyChanges s u (ps ++ qs) := by
  intro part hp
  rw [List.mem_append, not_or] at hp
  exact unchanged_trans part (h1 part hp.1) (h2 part hp.2)

theorem OnlyChanges.mono {ps qs : List Part} (h : OnlyChanges s t ps) (hpq : ∀ p ∈ ps, p ∈ qs) :
    OnlyChanges s t qs :=
  fun part hp => h part (fun hm => hp (hpq part hm))

/-! ## The updates -/

theorem onlyChanges_setStage (s : State) (ch : Chan) (i : Idx) (x : Stage) :
    OnlyChanges s (setStage s ch i x) [.stage ch i] := by
  intro part hp
  cases part <;> simp_all [unchanged, stageOf_setStage]
  all_goals (intro h1 h2; exact absurd h2.symm (hp h1.symm))

theorem onlyChanges_setBuf (s : State) (b : Idx) (x : Buffer) : OnlyChanges s (setBuf s b x) [.buffer b] := by
  intro part hp
  cases part <;> simp_all [unchanged, bufOf_setBuf]
  exact fun h => absurd h.symm hp

theorem onlyChanges_setUnit (s : State) (x : UnitId) (v : UnitState) :
    OnlyChanges s (setUnit s x v) [.unit x] := by
  intro part hp
  cases part with
  | unit y =>
    have : x ≠ y := fun h => hp (by simp [h])
    simp [unchanged, unitStateOf_setUnit, this]
  | entry k p => simp [unchanged, entryOf_setUnit]
  | occupancy k =>
    simp only [unchanged, setUnit, blkOf_setBlk]
    split
    · next h => subst h; simp
    · simp
  | _ => simp [unchanged]

theorem onlyChanges_respondTo (p : Port) (st : Status) (r : Word) (s : State) :
    OnlyChanges s (respondTo p st r s) [.slot p, .trace] := by
  intro part hp
  cases part <;> simp_all [unchanged, slotOf_respondTo]
  exact fun h => absurd h.symm hp

theorem answered_respondTo (p : Port) (st : Status) (r : Word) (s : State) :
    Answered s (respondTo p st r s) p st r :=
  ⟨by simp [slotOf_respondTo], rfl⟩

/-- What refusing can do: answer, and nothing else. -/
theorem refused_refuse (st : Status) (s : State) : Refused s (refuse st s) st :=
  ⟨answered_respondTo s.issuer st 0 s, onlyChanges_respondTo s.issuer st 0 s⟩

/-- A response after an update that touched neither slots, trace nor issuer. -/
theorem answered_respondOk_of {s u : State} (r : Word) (hi : u.issuer = s.issuer) (ht : u.trace = s.trace) :
    Answered s (respondOk r u) s.issuer .ok r := by
  refine ⟨?_, ?_⟩
  · rw [← hi]; exact (answered_respondTo u.issuer .ok r u).1
  · rw [← hi, ← ht]; rfl

/-- The frame of an update followed by a response. -/
theorem onlyChanges_respondOk_of {s u : State} {ps : List Part} (r : Word) (hi : u.issuer = s.issuer)
    (h : OnlyChanges s u ps) : OnlyChanges s (respondOk r u) (ps ++ [.slot s.issuer, .trace]) := by
  rw [← hi]
  exact h.trans (onlyChanges_respondTo u.issuer .ok r u)

/-! ## Entering HALT (60_exceptions.md R235) -/

/-- What raising a fatal error outside HALT can do. -/
theorem raiseFatal_spec (e : FatalError) (p : Port) (s : State) (h : s.halt = false) :
    Answered s (raiseFatal e p s) p (fatalStatus e) 0 ∧
      OnlyChanges s (raiseFatal e p s) [.error, .slot p, .trace] ∧
      (raiseFatal e p s).halt = true ∧ (raiseFatal e p s).errCode = statusCode (fatalStatus e) ∧
      (raiseFatal e p s).errCore = p.core := by
  have e0 : raiseFatal e p s = respondTo p (fatalStatus e) 0 (recordFatal e p.core s) := by
    simp [raiseFatal, h]
  rw [e0]
  refine ⟨⟨?_, rfl⟩, ?_, rfl, rfl, rfl⟩
  · simp [slotOf_respondTo]
  · have h1 : OnlyChanges s (recordFatal e p.core s) [.error] := by
      intro part hp
      cases part <;> simp_all [unchanged]
    exact (h1.trans (onlyChanges_respondTo p (fatalStatus e) 0 _)).mono (by simp)

/-- In HALT raising again records nothing: the first fatal error stands. -/
theorem raiseFatal_halted (e : FatalError) (p : Port) (s : State) (h : s.halt = true) :
    raiseFatal e p s = respondTo p (fatalStatus e) 0 s := by
  simp [raiseFatal, h]

end Sys2Proof.Machine
end

