-- ==== Sys2Proof/Laws/Effects.lean ====
section
/-! SUPPORT. Once and for all what a command and what a step can do: one case for each kind of next state.
Statements about every step are proved from `exec_effect` and `step_effect`, not by unfolding `exec` or
`step` again. -/

namespace Sys2Proof.Machine

/-- The next states of a command executed in state `s` on behalf of `s.issuer`. -/
inductive ExecEffect (s : State) : State → Prop where
  /-- The command is held. -/
  | held (hh : s.halt = false) : ExecEffect s s
  /-- It is answered with a status other than OK and changes nothing. -/
  | refused (st : Status) (hst : st ≠ .ok) : ExecEffect s (refuse st s)
  /-- It is answered OK and changes nothing. -/
  | read (v : Word) : ExecEffect s (respondOk v s)
  /-- BQ.LDC. -/
  | load (hh : s.halt = false) (ha : s.armed = false) (ch : Chan) (i : Idx) (k : Fin 5) (v : Word) :
      ExecEffect s (respondOk 0 (setStage s ch i (loadCoef (stageOf s ch i) k v)))
  /-- BQ.STEP. -/
  | step (hh : s.halt = false) (ch : Chan) (i : Idx) (x : Word) (hl : loaded (stageOf s ch i) = true) :
      ExecEffect s (respondOk (stageStep s.cfg (stageOf s ch i) x).2
        (setStage s ch i (stageStep s.cfg (stageOf s ch i) x).1))
  /-- BQ.CHAIN. -/
  | chain (hh : s.halt = false) (ch : Chan) (x : Word) (hl : chainLoaded s ch = true) :
      ExecEffect s (respondOk (chainRun s.cfg (s.filt[ch]) (below s.cfg.nSt[ch]) x).2
        (setChannel s ch (chainRun s.cfg (s.filt[ch]) (below s.cfg.nSt[ch]) x).1))
  /-- RB.WR, RB.WRB. -/
  | write (hh : s.halt = false) (i : Idx) (hi : i.val < s.cfg.nBuf) (hd : (bufCfg s i).dir = .output) (w : Word)
      (b : Buffer) (hb : enqueue (bufCfg s i) (bufOf s i) w = .ok b) :
      ExecEffect s (respondOk 0 (setBuf s i b))
  /-- RB.RD, RB.RDB. -/
  | take (hh : s.halt = false) (i : Idx) (hi : i.val < s.cfg.nBuf) (hd : (bufCfg s i).dir = .input) (v : Word)
      (b : Buffer) (hb : dequeue (bufCfg s i) (bufOf s i) = .ok (v, b)) :
      ExecEffect s (respondOk v (setBuf s i b))
  /-- RB.BEGIN. -/
  | bind (hh : s.halt = false) (i : Idx) (hi : i.val < s.cfg.nBuf) (x : UnitId) (hx : x.u.val < s.cfg.u)
      (a : Word) (cb : Bool) (hf : beginFails s i x a = false) :
      ExecEffect s (respondOk 0 (setBuf s i (bindBuffer (bufOf s i) x a cb s.issuer.core)))
  /-- RB.ACK. -/
  | ack (hh : s.halt = false) (i : Idx) (hi : i.val < s.cfg.nBuf) :
      ExecEffect s (respondOk 0 (setBuf s i { bufOf s i with irqPend := false }))
  /-- ARB.CLAIM accepted. -/
  | accept (hh : s.halt = false) (prog : Idx) (hp : prog.val < s.cfg.nProg) (len : BitVec 8)
      (hl : lenOk s.cfg len = true) (hk : s.lock.held = false) : ExecEffect s (acceptClaim s.issuer prog len s)
  /-- ARB.CLAIM from the core that holds the lock. -/
  | deadlock (hh : s.halt = false) (hk : s.lock.held = true) (ho : s.lock.owner = s.issuer.core) :
      ExecEffect s (raiseFatal .deadlock s.issuer s)
  /-- RB.BEGIN that cannot be armed. -/
  | initFailure (hh : s.halt = false) (i : Idx) (hi : i.val < s.cfg.nBuf) (x : UnitId) (a : Word)
      (hf : beginFails s i x a = true) : ExecEffect s (raiseFatal .transferInitFailure s.issuer s)
  /-- SEQ.EN. -/
  | enable (hh : s.halt = false) (x : UnitId) (hx : x.u.val < s.cfg.u) (hc : unitStateOf s x = .claimed) :
      ExecEffect s (respondOk 0 (setUnit s x .waiting))
  /-- SYNC.ARM. -/
  | arm (hh : s.halt = false) : ExecEffect s (respondOk (BitVec.ofNat 32 (waitingCount s)) (startAll s))

theorem selBuf_lt {c : Config} {b : BitVec 4} {i : Idx} (h : selBuf c b = some i) : i.val < c.nBuf := by
  unfold selBuf at h
  split at h
  · next hb => cases h; exact hb
  · cases h

theorem selUnit_lt {c : Config} {blk u : BitVec 4} {x : UnitId} (h : selUnit c blk u = some x) :
    x.u.val < c.u := by
  unfold selUnit at h
  split at h
  · split at h
    · next hu => cases h; exact hu
    · cases h
  · cases h

theorem selProg_lt {c : Config} {p : BitVec 4} {i : Idx} (h : selProg c p = some i) : i.val < c.nProg := by
  unfold selProg at h
  split at h
  · next hb => cases h; exact hb
  · cases h

/-- A command that checks HALT first: refused in HALT, its own meaning otherwise. -/
theorem unlessHalted_effect {s t : State} {k : Host.Outcome State Fault Refusal}
    (h : unlessHalted s k = .next t) (hk : s.halt = false → k = .next t → ExecEffect s t) :
    ExecEffect s t := by
  unfold unlessHalted at h
  split at h
  · cases h; exact .refused _ (by decide)
  · next hh => exact hk (by simpa using hh) h

/-- Everything a command can do. -/
theorem exec_effect {i : Instr} {s t : State} (h : exec i s = .next t) : ExecEffect s t := by
  cases i with
  | bqLdc ch st k coef =>
    refine unlessHalted_effect h (fun hh h => ?_)
    split at h
    · split at h
      · split at h
        · cases h; exact .refused _ (by decide)
        · next ha => cases h; exact .load hh (by simpa using ha) _ _ _ _
      · cases h; exact .refused _ (by decide)
    · cases h; exact .refused _ (by decide)
  | bqRds ch st r =>
    refine unlessHalted_effect h (fun hh h => ?_)
    split at h
    · split at h
      · split at h
        · cases h; exact .read _
        · cases h; exact .refused _ (by decide)
      · cases h; exact .refused _ (by decide)
    · cases h; exact .refused _ (by decide)
  | bqStep ch st x =>
    refine unlessHalted_effect h (fun hh h => ?_)
    split at h
    · split at h
      · split at h
        · next hl => cases h; exact .step hh _ _ _ hl
        · cases h; exact .refused _ (by decide)
      · cases h; exact .refused _ (by decide)
    · cases h; exact .refused _ (by decide)
  | bqChain ch x =>
    refine unlessHalted_effect h (fun hh h => ?_)
    split at h
    · split at h
      · next hl => cases h; exact .chain hh _ _ hl
      · cases h; exact .refused _ (by decide)
    · cases h; exact .refused _ (by decide)
  | alIn w =>
    refine unlessHalted_effect h (fun hh h => ?_)
    cases h; exact .read _
  | alOut v =>
    refine unlessHalted_effect h (fun hh h => ?_)
    cases h; exact .read _
  | rbWr b w =>
    refine unlessHalted_effect h (fun hh h => ?_)
    split at h
    · next i hi =>
      split at h
      · cases h; exact .refused _ (by decide)
      · next hd =>
        split at h
        · cases h; exact .refused _ (by decide)
        · unfold enqueueRespond at h
          split at h
          · cases h
          · next b' hb => cases h; exact .write hh i (selBuf_lt hi) (by simpa using hd) _ _ hb
    · cases h; exact .refused _ (by decide)
  | rbWrb b w =>
    refine unlessHalted_effect h (fun hh h => ?_)
    split at h
    · next i hi =>
      split at h
      · cases h; exact .refused _ (by decide)
      · next hd =>
        split at h
        · cases h; exact .held hh
        · unfold enqueueRespond at h
          split at h
          · cases h
          · next b' hb => cases h; exact .write hh i (selBuf_lt hi) (by simpa using hd) _ _ hb
    · cases h; exact .refused _ (by decide)
  | rbRd b =>
    refine unlessHalted_effect h (fun hh h => ?_)
    split at h
    · next i hi =>
      split at h
      · cases h; exact .refused _ (by decide)
      · next hd =>
        split at h
        · cases h; exact .refused _ (by decide)
        · unfold dequeueRespond at h
          split at h
          · cases h
          · next v b' hb => cases h; exact .take hh i (selBuf_lt hi) (by simpa using hd) _ _ hb
    · cases h; exact .refused _ (by decide)
  | rbRdb b =>
    refine unlessHalted_effect h (fun hh h => ?_)
    split at h
    · next i hi =>
      split at h
      · cases h; exact .refused _ (by decide)
      · next hd =>
        split at h
        · cases h; exact .held hh
        · unfold dequeueRespond at h
          split at h
          · cases h
          · next v b' hb => cases h; exact .take hh i (selBuf_lt hi) (by simpa using hd) _ _ hb
    · cases h; exact .refused _ (by decide)
  | rbBegin b tblk tu cb a =>
    refine unlessHalted_effect h (fun hh h => ?_)
    split at h
    · next i x hi hx =>
      split at h
      · next hf => cases h; exact .initFailure hh i (selBuf_lt hi) x a hf
      · next hf => cases h; exact .bind hh i (selBuf_lt hi) x (selUnit_lt hx) a cb (by simpa using hf)
    · cases h; exact .refused _ (by decide)
  | rbAck b =>
    refine unlessHalted_effect h (fun hh h => ?_)
    split at h
    · next i hi => cases h; exact .ack hh i (selBuf_lt hi)
    · cases h; exact .refused _ (by decide)
  | arbClaim p len =>
    refine unlessHalted_effect h (fun hh h => ?_)
    split at h
    · next prog hp =>
      split at h
      · next hl =>
        split at h
        · next hk => cases h; exact .accept hh prog (selProg_lt hp) len hl hk
        · next hk =>
          split at h
          · next ho => cases h; exact .deadlock hh (by simpa using hk) ho
          · cases h; exact .held hh
      · cases h; exact .refused _ (by decide)
    · cases h; exact .refused _ (by decide)
  | seqEn blk u =>
    refine unlessHalted_effect h (fun hh h => ?_)
    split at h
    · next x hx =>
      split at h
      · next hc => cases h; exact .enable hh x (selUnit_lt hx) hc
      · cases h; exact .refused _ (by decide)
    · cases h; exact .refused _ (by decide)
  | syncArm =>
    refine unlessHalted_effect h (fun hh h => ?_)
    cases h; exact .arm hh
  | csrRd csr =>
    change execCsrRd csr s = .next t at h
    unfold execCsrRd at h
    split at h
    · cases h; exact .read _
    · cases h; exact .refused _ (by decide)

/-- Everything executing a command word can do. -/
theorem executeCommand_effect {c : Command} {s t : State} (h : executeCommand c s = .next t) :
    ExecEffect s t := by
  unfold executeCommand at h
  split at h
  · exact exec_effect h
  · cases h
    refine .refused _ ?_
    split <;> decide

/-- The next states of one event in state `s`. -/
inductive EventEffect (s : State) : Event → State → Prop where
  | reset : EventEffect s .reset (resetInput s)
  /-- A command is presented on an empty slot. -/
  | present (p : Port) (c : Command) (h : slotOf s p = none) : EventEffect s (.present p c) (setSlot s p (some c))
  /-- Nothing happens: no agent's step was enabled. -/
  | nothing (e : Event) (he : e ≠ .reset) : EventEffect s e s
  /-- The command outstanding in slot `p` is executed, or held again. -/
  | serve (p : Port) (c : Command) (hc : slotOf s p = some c)
      (hw : claimInProgress s p = false ∨ s.halt = true) (t : State)
      (h : ExecEffect (setIssuer p s) t) : EventEffect s (.serve p) t
  /-- A step of the arbitrator. -/
  | scan (hh : s.halt = false) (hs : s.arbState = .scan) : EventEffect s .arb (arbScan s)
  | load (hh : s.halt = false) (hs : s.arbState = .load) : EventEffect s .arb (arbLoad s)
  | record (hh : s.halt = false) (hs : s.arbState = .record) : EventEffect s .arb (arbRecord s)
  /-- A step of a transfer engine. -/
  | engineIn (b : Idx) (he : xferEnabled s b = true) (hd : (bufCfg s b).dir = .input) (x : Buffer)
      (hx : engineIn (bufCfg s b) (bufOf s b) (wireInWord s b (bufOf s b).winPos) = .ok x) :
      EventEffect s (.xfer b) (setBuf s b x)
  | engineOut (b : Idx) (he : xferEnabled s b = true) (hd : (bufCfg s b).dir = .output) (x : Buffer)
      (hx : engineOut (bufCfg s b) (bufOf s b) = .ok x) : EventEffect s (.xfer b) (setBuf s b x)

/-- Everything an event can do. -/
theorem runEvent_effect {e : Event} {s t : State} (h : runEvent e s = .next t) : EventEffect s e t := by
  cases e with
  | reset => cases h; exact .reset
  | present p c =>
    cases h
    unfold presentCommand
    split
    · next hn => exact .present p c hn
    · exact .nothing _ (by simp)
  | serve p =>
    change serve p s = .next t at h
    unfold serve at h
    split at h
    · cases h; exact .nothing _ (by simp)
    · next c hc =>
      split at h
      · cases h; exact .nothing _ (by simp)
      · next hw =>
        refine .serve p c hc ?_ t (executeCommand_effect h)
        cases hp : claimInProgress s p <;> cases hh : s.halt <;> simp_all
  | arb =>
    cases h
    unfold arbStep
    split
    · exact .nothing _ (by simp)
    · next hh =>
      have hh : s.halt = false := by simpa using hh
      split
      · exact .nothing _ (by simp)
      · next hs => exact .scan hh hs
      · next hs => exact .load hh hs
      · next hs => exact .record hh hs
  | xfer b =>
    change xferStep b s = .next t at h
    unfold xferStep at h
    split at h
    · next he =>
      split at h
      · cases h
      · next x hx =>
        cases h
        split at hx
        · next hd => exact .engineIn b he hd x hx
        · next hd => exact .engineOut b he hd x hx
    · cases h; exact .nothing _ (by simp)

/-- Everything a step can do: the next event is taken and run. -/
theorem step_effect {s t : State} (h : step s = .next t) : EventEffect (nextEvent s).2 (nextEvent s).1 t :=
  runEvent_effect h

/-- Taking the next event touches the schedule only. -/
theorem nextEvent_onlyChanges (s : State) : OnlyChanges s (nextEvent s).2 [.schedule] := by
  intro part hp
  unfold nextEvent
  split <;> cases part <;> simp_all [unchanged]

end Sys2Proof.Machine
end

