-- ==== Sys2Proof/Laws/Operands.lean ====
section
/-! SUPPORT. What reading an operand gives: the selectors of 30_encoding.md R99, the CSR numbers of
45_system.md R225, the lists of existing registers, and the arithmetic of 00_scope.md R5 on values in
range. -/

namespace Sys2Proof

theorem mem_allIdx (i : Idx) : i ∈ allIdx := by revert i; decide

/-- `below n` lists the register numbers below n. -/
@[simp] theorem mem_below {n : Nat} {i : Idx} : i ∈ below n ↔ i.val < n := by
  simp [below, mem_allIdx]

theorem nodup_below (n : Nat) : (below n).Nodup := List.Nodup.filter _ (by decide)

end Sys2Proof

namespace Sys2Proof.Machine

/-! ## Selectors that name something -/

theorem selChan_of {ch : BitVec 4} {c : Chan} (h : ch.toNat = c.val) : selChan ch = some c := by
  unfold selChan
  rw [dif_pos (by have := c.isLt; omega)]
  exact congrArg some (Fin.ext h)

theorem selStage_of {c : Config} {ch : Chan} {st : BitVec 4} {i : Idx} (h : st.toNat = i.val)
    (hi : i.val < c.nSt[ch]) : selStage c ch st = some i := by
  unfold selStage
  rw [if_pos (by omega)]
  exact congrArg some (Fin.ext h)

theorem selCoef_of {k : BitVec 3} {i : Fin 5} (h : k.toNat = i.val) : selCoef k = some i := by
  unfold selCoef
  rw [dif_pos (by have := i.isLt; omega)]
  exact congrArg some (Fin.ext h)

theorem selBuf_of {c : Config} {b : BitVec 4} {i : Idx} (h : b.toNat = i.val) (hi : i.val < c.nBuf) :
    selBuf c b = some i := by
  unfold selBuf
  rw [if_pos (by omega)]
  exact congrArg some (Fin.ext h)

theorem selBuf_eq_some {c : Config} {b : BitVec 4} {i : Idx} (h : selBuf c b = some i) :
    b.toNat = i.val ∧ i.val < c.nBuf := by
  simp only [selBuf] at h
  split at h
  · next hb => cases h; exact ⟨rfl, hb⟩
  · cases h

theorem selProg_of {c : Config} {p : BitVec 4} {i : Idx} (h : p.toNat = i.val) (hi : i.val < c.nProg) :
    selProg c p = some i := by
  unfold selProg
  rw [if_pos (by omega)]
  exact congrArg some (Fin.ext h)

theorem selUnit_of {c : Config} {k u : BitVec 4} {x : UnitId} (hk : k.toNat = x.blk.val)
    (hu : u.toNat = x.u.val) (hx : x.u.val < c.u) : selUnit c k u = some x := by
  obtain ⟨blk, v⟩ := x
  unfold selUnit
  rw [dif_pos (by have := blk.isLt; simp only at hk; omega), if_pos (by simp only at *; omega)]
  exact congrArg some (congrArg₂ UnitId.mk (Fin.ext hk) (Fin.ext hu))

theorem selUnit_eq_some {c : Config} {k u : BitVec 4} {x : UnitId} (h : selUnit c k u = some x) :
    k.toNat = x.blk.val ∧ u.toNat = x.u.val ∧ x.u.val < c.u := by
  simp only [selUnit] at h
  split at h
  · split at h
    · next hu => cases h; exact ⟨rfl, rfl, hu⟩
    · cases h
  · cases h

/-! ## CSR numbers -/

theorem isSome_ite {α : Type} {p : Prop} [Decidable p] {x y : Option α} :
    (if p then x else y).isSome = true ↔ (p ∧ x.isSome = true) ∨ (¬ p ∧ y.isSome = true) := by
  by_cases h : p <;> simp [h]

theorem isSome_dite {α : Type} {p : Prop} [Decidable p] {x : p → Option α} {y : Option α} :
    (if h : p then x h else y).isSome = true ↔ (∃ h : p, (x h).isSome = true) ∨ (¬ p ∧ y.isSome = true) := by
  by_cases h : p <;> simp [h]

/-- The CSR numbers that name a register, whatever the configuration says (R225). -/
theorem selCsr_isSome (c : Config) (csr : BitVec 12) :
    (selCsr c csr).isSome = true ↔
      csr.toNat ≤ 3 ∨ (16 ≤ csr.toNat ∧ csr.toNat ≤ 21) ∨
      (32 ≤ csr.toNat ∧ csr.toNat < 48 ∧ csr.toNat < 32 + c.nProg) ∨
      (48 ≤ csr.toNat ∧ csr.toNat < 64 ∧ csr.toNat < 48 + c.nProg) ∨
      (256 ≤ csr.toNat ∧ csr.toNat < 384 ∧ csr.toNat < 256 + 8 * c.nBuf) := by
  unfold selCsr selTable
  generalize csr.toNat = n
  simp only [isSome_ite, isSome_dite, Option.isSome_some, Option.isSome_none, Bool.false_eq_true, and_false,
    or_false, and_true, exists_prop]
  omega

/-! ## Integers in range -/

/-- A sum that fits the accumulator is its own accumulator value (41_iir_filter.md R133). -/
theorem wrap64_toInt {z : Int} (h1 : -(2 ^ 63) ≤ z) (h2 : z < 2 ^ 63) : (wrap 64 z).toInt = z := by
  unfold wrap
  rw [BitVec.toInt_ofInt]
  apply Int.bmod_eq_of_le <;> norm_num at * <;> omega

/-- An integer that fits a word is the word's signed reading (00_scope.md R5). -/
theorem wrap32_toInt {z : Int} (h1 : -(2 ^ 31) ≤ z) (h2 : z < 2 ^ 31) : (wrap 32 z).toInt = z := by
  unfold wrap
  rw [BitVec.toInt_ofInt]
  apply Int.bmod_eq_of_le <;> norm_num at * <;> omega

/-- `low` as an integer remainder. -/
theorem low_cast (z : Int) (k : Nat) : ((low z k : Nat) : Int) = z % 2 ^ k := by
  unfold low
  rw [Int.toNat_of_nonneg]
  exact Int.emod_nonneg _ (by positivity)

end Sys2Proof.Machine
end

