-- ==== Sys2Proof/Laws/Flags.lean ====
section
/-! SUPPORT. What each condition computed from state means, and the conversion of coefficients. -/

namespace Sys2Proof.Machine

/-- A stage is loaded when its five valid bits are set (10_state.md R21). -/
theorem loaded_iff (g : Stage) : loaded g = true ↔ ∀ k : Fin 5, g.cval[k] = true := by
  simp [loaded, Fin.forall_fin_succ, and_assoc]

/-- A chain is loaded when each of its stages is (41_iir_filter.md R138). -/
theorem chainLoaded_iff (s : State) (ch : Chan) :
    chainLoaded s ch = true ↔ ∀ i : Idx, i.val < s.cfg.nSt[ch] → loaded (stageOf s ch i) = true := by
  unfold chainLoaded
  simp only [List.all_eq_true, mem_below]
  rfl

/-- When an engine has a step (43_ringbuffer.md R185). -/
theorem xferEnabled_iff (s : State) (b : Idx) :
    xferEnabled s b = true ↔
      b.val < s.cfg.nBuf ∧ (bufOf s b).bound = true ∧ unitStateOf s (bufOf s b).trig = .running := by
  simp [xferEnabled, bufOf, and_assoc]

/-- When binding a buffer fails (43_ringbuffer.md R183). -/
theorem beginFails_iff (s : State) (b : Idx) (x : UnitId) (a : Word) :
    beginFails s b x a = true ↔ CannotArm s b x a := by
  simp only [CannotArm, beginFails, Bool.or_eq_true, decide_eq_true_eq, List.any_eq_true, mem_below, Bool.and_eq_true, bufOf]
  constructor
  · rintro ((((h | h) | h) | h) | ⟨j, h1, ⟨h2, h3⟩, h4⟩)
    · exact .inl h
    · exact .inr (.inl h)
    · exact .inr (.inr (.inl h))
    · exact .inr (.inr (.inr (.inl h)))
    · exact .inr (.inr (.inr (.inr ⟨j, h2, h1, h3, h4⟩)))
  · rintro (h | h | h | h | ⟨j, h1, h2, h3, h4⟩)
    · exact .inl (.inl (.inl (.inl h)))
    · exact .inl (.inl (.inl (.inr h)))
    · exact .inl (.inl (.inr h))
    · exact .inl (.inr h)
    · exact .inr ⟨j, h2, ⟨h1, h3⟩, h4⟩

/-- The units that exist (42_arbitrator.md R153). -/
theorem mem_allUnits {c : Config} {x : UnitId} : x ∈ allUnits c ↔ x.u.val < c.u := by
  obtain ⟨k, u⟩ := x
  have hk : ∀ k : Blk, k = 0 ∨ k = 1 := by decide
  simp only [allUnits, List.mem_append, List.mem_map, mem_below, UnitId.mk.injEq]
  constructor
  · rintro (⟨a, h, _, rfl⟩ | ⟨a, h, _, rfl⟩) <;> exact h
  · intro h
    rcases hk k with rfl | rfl
    · exact .inl ⟨u, h, rfl, rfl⟩
    · exact .inr ⟨u, h, rfl, rfl⟩

/-- SCAN finds no unit exactly when no existing unit is FREE (42_arbitrator.md R153). -/
theorem firstFree_eq_none (s : State) :
    firstFree s = none ↔ ∀ x, x.u.val < s.cfg.u → unitStateOf s x ≠ .free := by
  simp [firstFree, List.find?_eq_none, mem_allUnits]

/-- A coefficient of at least 0 is converted by rounding down (40_coefficients.md R121). -/
theorem coefOfReal_nonneg (q : Nat) (c : ℚ) (h : 0 ≤ c) : coefOfReal q c = ⌊c * 2 ^ q⌋ := by
  have e : c * 2 ^ q = ((c.num * 2 ^ q : Int) : ℚ) / ((c.den : Nat) : ℚ) := by
    push_cast
    rw [mul_comm, mul_comm (c.num : ℚ), mul_div_assoc, Rat.num_div_den]
  have hn : 0 ≤ c.num := Rat.num_nonneg.mpr h
  rw [e, Rat.floor_intCast_div_natCast, coefOfReal, Int.tdiv_eq_ediv_of_nonneg (by positivity)]

/-- Conversion keeps the magnitude: a coefficient below 0 is rounded up, toward zero (40_coefficients.md R121). -/
theorem coefOfReal_neg (q : Nat) (c : ℚ) : coefOfReal q (-c) = -coefOfReal q c := by
  simp [coefOfReal, Int.neg_tdiv]

end Sys2Proof.Machine
end

