-- ==== Sys2Proof/Laws/PerInstr.lean ====
section
/-! SUPPORT. One lemma per constructor of `Instr`: every command's word lies in that command's row of the
opcode table (30_encoding.md R95, R98). -/

namespace Sys2Proof

/-- A packed word matches a row that masks the opcode and otherwise only bits that are zero. -/
theorem opRow_matches (o : Opcode) (sa sb ma mb : BitVec 4) (imm mi : BitVec 16) (row : OpRow)
    (hm : row.mask = (0xFF#8 ++ ma ++ mb ++ mi : BitVec 32)) (hp : row.pattern = packWord o 0 0 0)
    (ha : sa &&& ma = 0) (hb : sb &&& mb = 0) (hi : imm &&& mi = 0) :
    row.matches (packWord o sa sb imm) = true := by
  have hc : o.code &&& 0xFF#8 = o.code := by cases o <;> rfl
  rw [OpRow.matches, beq_iff_eq, hm, hp]
  change (o.code ++ sa ++ sb ++ imm : BitVec (8 + 4 + 4 + 16)) &&& (0xFF#8 ++ ma ++ mb ++ mi) =
    (o.code ++ 0 ++ 0 ++ 0 : BitVec (8 + 4 + 4 + 16))
  rw [BitVec.and_append, BitVec.and_append, BitVec.and_append, hc, ha, hb, hi]

end Sys2Proof

namespace Sys2Proof.Laws.EncodesItsRow

/-- The encoded word of the command matches the command's own row of the opcode table. -/
def Statement (i : Instr) : Prop := ∃ r ∈ opTable, r.op = i.opcode ∧ r.matches (encode i).cw = true

/-- The must-be-zero bits of ARB.CLAIM's immediate. -/
theorem claim_imm (p : BitVec 4) (len : BitVec 8) : (len ++ 0#4 ++ p : BitVec 16) &&& 0x00F0#16 = 0 := by
  change (len ++ 0#4 ++ p : BitVec (8 + 4 + 4)) &&& (0#8 ++ 0xF#4 ++ 0#4) = (0#8 ++ 0#4 ++ 0#4)
  rw [BitVec.and_append, BitVec.and_append]
  simp

/-- The must-be-zero bits of CSR.RD's immediate. -/
theorem csr_imm (csr : BitVec 12) : csr.setWidth 16 &&& 0xF000#16 = 0 := by
  have mask : ∀ i : Fin 12, (0xF000#16).getLsbD i.val = false := by decide
  apply BitVec.eq_of_getLsbD_eq
  intro i hi
  by_cases h : i < 12
  · simp [mask ⟨i, h⟩]
  · simp [BitVec.getLsbD_of_ge csr i (by omega)]

theorem bqLdc (ch st : BitVec 4) (k : BitVec 3) (coef : Word) : Statement (.bqLdc ch st k coef) :=
  ⟨⟨.ldc, 0x10000000, 0xFF00FFF8⟩, by decide, rfl,
    opRow_matches .ldc _ _ 0x0#4 0x0#4 _ 0xFFF8#16 _ rfl rfl (by simp) (by simp) (by revert k; decide)⟩

theorem bqRds (ch st r : BitVec 4) : Statement (.bqRds ch st r) :=
  ⟨⟨.rds, 0x11000000, 0xFF00FFF0⟩, by decide, rfl,
    opRow_matches .rds _ _ 0x0#4 0x0#4 _ 0xFFF0#16 _ rfl rfl (by simp) (by simp) (by revert r; decide)⟩

theorem bqStep (ch st : BitVec 4) (x : Word) : Statement (.bqStep ch st x) :=
  ⟨⟨.step, 0x12000000, 0xFF00FFFF⟩, by decide, rfl,
    opRow_matches .step _ _ 0x0#4 0x0#4 _ 0xFFFF#16 _ rfl rfl (by simp) (by simp) (by simp)⟩

theorem bqChain (ch : BitVec 4) (x : Word) : Statement (.bqChain ch x) :=
  ⟨⟨.chain, 0x13000000, 0xFF0FFFFF⟩, by decide, rfl,
    opRow_matches .chain _ _ 0x0#4 0xF#4 _ 0xFFFF#16 _ rfl rfl (by simp) (by simp) (by simp)⟩

theorem alIn (w : Word) : Statement (.alIn w) :=
  ⟨⟨.alIn, 0x18000000, 0xFFFFFFFF⟩, by decide, rfl,
    opRow_matches .alIn _ _ 0xF#4 0xF#4 _ 0xFFFF#16 _ rfl rfl (by simp) (by simp) (by simp)⟩

theorem alOut (v : Word) : Statement (.alOut v) :=
  ⟨⟨.alOut, 0x19000000, 0xFFFFFFFF⟩, by decide, rfl,
    opRow_matches .alOut _ _ 0xF#4 0xF#4 _ 0xFFFF#16 _ rfl rfl (by simp) (by simp) (by simp)⟩

theorem rbWr (b : BitVec 4) (w : Word) : Statement (.rbWr b w) :=
  ⟨⟨.wr, 0x20000000, 0xFF0FFFFF⟩, by decide, rfl,
    opRow_matches .wr _ _ 0x0#4 0xF#4 _ 0xFFFF#16 _ rfl rfl (by simp) (by simp) (by simp)⟩

theorem rbWrb (b : BitVec 4) (w : Word) : Statement (.rbWrb b w) :=
  ⟨⟨.wrb, 0x21000000, 0xFF0FFFFF⟩, by decide, rfl,
    opRow_matches .wrb _ _ 0x0#4 0xF#4 _ 0xFFFF#16 _ rfl rfl (by simp) (by simp) (by simp)⟩

theorem rbRd (b : BitVec 4) : Statement (.rbRd b) :=
  ⟨⟨.rd, 0x22000000, 0xFF0FFFFF⟩, by decide, rfl,
    opRow_matches .rd _ _ 0x0#4 0xF#4 _ 0xFFFF#16 _ rfl rfl (by simp) (by simp) (by simp)⟩

theorem rbRdb (b : BitVec 4) : Statement (.rbRdb b) :=
  ⟨⟨.rdb, 0x23000000, 0xFF0FFFFF⟩, by decide, rfl,
    opRow_matches .rdb _ _ 0x0#4 0xF#4 _ 0xFFFF#16 _ rfl rfl (by simp) (by simp) (by simp)⟩

theorem rbBegin (b tblk tu : BitVec 4) (cb : Bool) (a : Word) : Statement (.rbBegin b tblk tu cb a) :=
  ⟨⟨.begin_, 0x24000000, 0xFF0FFE00⟩, by decide, rfl,
    opRow_matches .begin_ _ _ 0x0#4 0xF#4 _ 0xFE00#16 _ rfl rfl (by simp) (by simp) (by revert tblk tu cb; decide)⟩

theorem rbAck (b : BitVec 4) : Statement (.rbAck b) :=
  ⟨⟨.ack, 0x25000000, 0xFF0FFFFF⟩, by decide, rfl,
    opRow_matches .ack _ _ 0x0#4 0xF#4 _ 0xFFFF#16 _ rfl rfl (by simp) (by simp) (by simp)⟩

theorem arbClaim (p : BitVec 4) (len : BitVec 8) : Statement (.arbClaim p len) :=
  ⟨⟨.claim, 0x30000000, 0xFFFF00F0⟩, by decide, rfl,
    opRow_matches .claim _ _ 0xF#4 0xF#4 _ 0x00F0#16 _ rfl rfl (by simp) (by simp) (claim_imm p len)⟩

theorem seqEn (blk u : BitVec 4) : Statement (.seqEn blk u) :=
  ⟨⟨.en, 0x31000000, 0xFF00FFFF⟩, by decide, rfl,
    opRow_matches .en _ _ 0x0#4 0x0#4 _ 0xFFFF#16 _ rfl rfl (by simp) (by simp) (by simp)⟩

theorem syncArm : Statement (.syncArm) :=
  ⟨⟨.arm, 0x32000000, 0xFFFFFFFF⟩, by decide, rfl,
    opRow_matches .arm _ _ 0xF#4 0xF#4 _ 0xFFFF#16 _ rfl rfl (by simp) (by simp) (by simp)⟩

theorem csrRd (csr : BitVec 12) : Statement (.csrRd csr) :=
  ⟨⟨.csr, 0x3F000000, 0xFFFFF000⟩, by decide, rfl,
    opRow_matches .csr _ _ 0xF#4 0xF#4 _ 0xF000#16 _ rfl rfl (by simp) (by simp) (csr_imm csr)⟩

end Sys2Proof.Laws.EncodesItsRow
end

