-- ==== Sys2Proof/Tests/Slice0.lean ====
section
/-! SUPPORT. Tests of the model against the vectors of 95_test_vectors.md and the examples of the rules, the
smoke test of WellFormed.lean, and one witness for each statement that has hypotheses (a witness per clause
where a statement has several). -/

namespace Sys2Proof.Tests

open Sys2Proof Sys2Proof.Machine

/-! ## Small states -/

/-- After reset under CFG-A. -/
def base : State := State.resetWith Config.cfgA

/-- After reset under CFG-B. -/
def baseB : State := State.resetWith Config.cfgB

/-- HALT with TransferInitFailure recorded, and a command outstanding on the thread slot of core 0. -/
def haltedS : State := { setSlot base ⟨0, .T⟩ (some ⟨0x25000000, 0⟩) with halt := true, errCode := 0x83#8 }

/-- A stage with all five coefficients loaded. -/
def stageWith (coef : Vector Word 5) : Stage := { Stage.reset with coef := coef, cval := Vector.replicate 5 true }

/-- Identity filters on both channels of CFG-A. -/
def identS : State :=
  setStage (setStage base 0 0 (stageWith #v[0x40000000, 0, 0, 0, 0])) 1 0 (stageWith #v[0x40000000, 0, 0, 0, 0])

/-- The stage of vector F2 on stage (0,0) of CFG-B, Q = 4. -/
def halfS : State := setStage baseB 0 0 (stageWith #v[8, 0, 0, 0, 0])

/-- The OUT buffer of CFG-A holding its first `k` words. -/
def outHolding (k : Nat) : Buffer :=
  { Buffer.reset with mem := [(0, 0xA0), (1, 0xA1), (2, 0xA2), (3, 0xA3)].take k, head := k }

/-- Both buffers bound and both engines running: buffer 0 (IN) holds `b0`, buffer 1 (OUT) holds `b1`. -/
def runningS (b0 b1 : Buffer) : State :=
  { setBuf (setBuf (setUnit (setUnit base ⟨0, 0⟩ .running) ⟨0, 1⟩ .running) 0
      { b0 with bound := true, trig := ⟨0, 0⟩, fifoAddr := 0x50200024, cbEn := true }) 1
      { b1 with bound := true, trig := ⟨0, 1⟩, fifoAddr := 0x50200018 } with armed := true }

/-- The wire of the IN buffer in the tests. -/
def inWire : Buffer := { Buffer.reset with wireIn := [0x10, 0x11, 0x20, 0x21] }

/-- The IN buffer full: four words taken from the wire. -/
def inFull : Buffer :=
  { inWire with mem := [(0, 0x10), (1, 0x11), (2, 0x20), (3, 0x21)], head := 4, winPos := 4, units := 2 }

/-- A claim of program 0, length 8, by the thread slot of core 0, in arbitrator state `st`. -/
def claimS (st : ArbState) : State :=
  { setSlot base ⟨0, .T⟩ (some ⟨0x30000800, 0⟩) with
    lock := ⟨true, 0⟩, arbState := st, arbReq := ⟨⟨0, .T⟩, 0, 8⟩ }

/-- The same claim when block 0 already holds program 0, loaded by an earlier claim. -/
def residentS (st : ArbState) : State :=
  setBlk (claimS st) 0
    { Block.reset with table := Block.reset.table.set 0 ⟨true, 0, 8⟩, imemUsed := 8, loadCount := 1 }

/-- The same claim after LOAD placed the program. -/
def placedS : State := setBlk (claimS .record) 0 { Block.reset with imemUsed := 8, loadCount := 1 }

/-- No unit is FREE any more. -/
def noUnitS : State :=
  { claimS .scan with
    blks := Vector.replicate 2 { Block.reset with unitState := Vector.replicate 16 .claimed } }

/-- Unit (0,0) in the given state. -/
def unitS (u : UnitState) : State := setUnit base ⟨0, 0⟩ u

/-- `s` with event `e` next. -/
def about (e : Event) (s : State) : State := { s with agenda := [e] }

/-- `s` with command words outstanding on the thread slot of core 0 and served next. -/
def serving (cw data : Word) (s : State) : State :=
  about (.serve ⟨0, .T⟩) (setSlot s ⟨0, .T⟩ (some ⟨cw, data⟩))

/-- The state after. -/
def after (o : Host.Outcome State Fault Refusal) : Option State :=
  match o with
  | .next t => some t
  | _ => none

/-- What a test looks at in the state after. -/
def see {α : Type} (o : Host.Outcome State Fault Refusal) (f : State → α) : Option α := (after o).map f

/-- Status and data of the last response in the state after. -/
def answer (o : Host.Outcome State Fault Refusal) : Option (Status × Word) :=
  ((after o).bind (fun t => t.trace.getLast?)).map (fun r => (r.status, r.rdata))

/-! ## Well-formedness: an ill-formed term for each check (30_encoding.md R99, vector E3) -/

theorem test_wf_channel : (Instr.bqLdc 2 0 0 0).wellFormed Config.cfgB = false := by decide
theorem test_wf_stage0 : (Instr.bqStep 0 2 0).wellFormed Config.cfgB = false := by decide
theorem test_wf_stage1 : (Instr.bqRds 1 1 0).wellFormed Config.cfgB = false := by decide
theorem test_wf_coef : (Instr.bqLdc 0 0 5 0).wellFormed Config.cfgB = false := by decide
theorem test_wf_reg : (Instr.bqRds 0 0 10).wellFormed Config.cfgB = false := by decide
theorem test_wf_chain : (Instr.bqChain 2 0).wellFormed Config.cfgB = false := by decide
theorem test_wf_buffer :
    (Instr.rbWr 2 0).wellFormed Config.cfgB = false ∧ (Instr.rbWrb 2 0).wellFormed Config.cfgB = false ∧
    (Instr.rbRd 15).wellFormed Config.cfgB = false ∧ (Instr.rbRdb 2).wellFormed Config.cfgB = false ∧
    (Instr.rbAck 2).wellFormed Config.cfgB = false ∧ (Instr.rbBegin 2 0 0 true 0).wellFormed Config.cfgB = false := by
  decide
theorem test_wf_begin_unit : (Instr.rbBegin 0 0 4 false 0).wellFormed Config.cfgB = false := by decide
theorem test_wf_begin_block : (Instr.rbBegin 0 2 0 false 0).wellFormed Config.cfgB = false := by decide
theorem test_wf_prog : (Instr.arbClaim 4 8).wellFormed Config.cfgB = false := by decide
theorem test_wf_len_zero : (Instr.arbClaim 0 0).wellFormed Config.cfgB = false := by decide
theorem test_wf_len_long : (Instr.arbClaim 0 33).wellFormed Config.cfgB = false := by decide
theorem test_wf_en_block : (Instr.seqEn 2 0).wellFormed Config.cfgB = false := by decide
theorem test_wf_en_unit : (Instr.seqEn 0 4).wellFormed Config.cfgB = false := by decide
theorem test_wf_csr :
    (Instr.csrRd 0x004).wellFormed Config.cfgB = false ∧ (Instr.csrRd 0x016).wellFormed Config.cfgB = false ∧
    (Instr.csrRd 0x024).wellFormed Config.cfgB = false ∧ (Instr.csrRd 0x110).wellFormed Config.cfgB = false ∧
    (Instr.csrRd 0xFFF).wellFormed Config.cfgB = false := by decide
theorem test_wf_accepts :
    (Instr.arbClaim 0 32).wellFormed Config.cfgB = true ∧ (Instr.bqStep 0 1 0).wellFormed Config.cfgB = true ∧
    (Instr.csrRd 0x10F).wellFormed Config.cfgB = true ∧ (Instr.alIn 0).wellFormed Config.cfgB = true ∧
    (Instr.alOut 0).wellFormed Config.cfgB = true ∧ Instr.syncArm.wellFormed Config.cfgB = true := by decide
theorem test_config_valid : Config.cfgA.Valid ∧ Config.cfgB.Valid := by decide
theorem test_config_q : ¬ { Config.cfgB with q := 31 }.Valid ∧ ¬ { Config.cfgB with q := 0 }.Valid := by decide
theorem test_config_stages : ¬ { Config.cfgB with nSt := #v[17, 1] }.Valid := by decide
theorem test_config_units : ¬ { Config.cfgB with u := 17 }.Valid := by decide
theorem test_config_imem : ¬ { Config.cfgB with m := 256 }.Valid := by decide
theorem test_config_progs : ¬ { Config.cfgB with nProg := 0 }.Valid := by decide
theorem test_config_bufs : ¬ { Config.cfgB with nBuf := 0 }.Valid := by decide
theorem test_config_ring : ¬ (BufConfig.mk 5 .input 2).Valid ∧ ¬ (BufConfig.mk 2 .input 2).Valid := by decide
theorem test_config_xfer : ¬ (BufConfig.mk 4 .input 3).Valid ∧ ¬ (BufConfig.mk 4 .input 6).Valid := by decide
theorem test_config_shift : ¬ { Config.cfgB with inShift := 32 }.Valid ∧ ¬ { Config.cfgB with outShift := 32 }.Valid := by
  decide

/-! ## Decoding: words written out in vector E1 and in 30_encoding.md R103 -/

theorem test_decode_ldc : decode 0x10010003 0xFFFFFFF4 = .ok (.bqLdc 0 1 3 0xFFFFFFF4) := by decide
theorem test_decode_rds : decode 0x11010007 0 = .ok (.bqRds 0 1 7) := by decide
theorem test_decode_step : decode 0x12120000 5 = .ok (.bqStep 1 2 5) := by decide
theorem test_decode_chain : decode 0x13100000 6 = .ok (.bqChain 1 6) := by decide
theorem test_decode_al_in : decode 0x18000000 7 = .ok (.alIn 7) := by decide
theorem test_decode_al_out : decode 0x19000000 7 = .ok (.alOut 7) := by decide
theorem test_decode_wr : decode 0x20100000 8 = .ok (.rbWr 1 8) := by decide
theorem test_decode_wrb : decode 0x21100000 8 = .ok (.rbWrb 1 8) := by decide
theorem test_decode_rd : decode 0x22000000 9 = .ok (.rbRd 0) := by decide
theorem test_decode_rdb : decode 0x23000000 9 = .ok (.rbRdb 0) := by decide
theorem test_decode_begin : decode 0x24000101 0x50200024 = .ok (.rbBegin 0 0 1 true 0x50200024) := by decide
theorem test_decode_ack : decode 0x25000000 0 = .ok (.rbAck 0) := by decide
theorem test_decode_claim : decode 0x30001E00 0 = .ok (.arbClaim 0 30) := by decide
theorem test_decode_en : decode 0x31130000 0 = .ok (.seqEn 1 3) := by decide
theorem test_decode_arm : decode 0x32000000 0 = .ok .syncArm := by decide
theorem test_decode_csr : decode 0x3F000108 0 = .ok (.csrRd 0x108) := by decide

/-- Vector E2: reserved opcodes. -/
theorem test_decode_reserved :
    [0x00000000#32, 0xFFFFFFFF#32, 0x14000000#32, 0x1A000000#32, 0x26000000#32, 0x33000000#32, 0x3E000000#32,
      0x40000000#32].map (fun w => (decode w 0).toOption) = List.replicate 8 none := by rfl

/-- Vector E2: must-be-zero bits set. -/
theorem test_decode_mbz :
    [0x10000008#32, 0x11000010#32, 0x12000001#32, 0x13010000#32, 0x18000001#32, 0x19100000#32, 0x20010000#32,
      0x22000001#32, 0x24000200#32, 0x25000100#32, 0x30100800#32, 0x30000810#32, 0x31000001#32, 0x32100000#32,
      0x3F001000#32, 0x3F100000#32].map (fun w => (decode w 0).toOption) = List.replicate 16 none := by rfl

/-- A table word: command word below, data word above. -/
theorem test_table_word : decodeTableWord 64 0x0000000312000000 = some (.bqStep 0 0 3) := by decide

/-- The first step after reset executes the placed command: stage (0,0) is not loaded (vector L1, line 4). -/
theorem test_first_step : answer (step (State.reset.withFetchWord 64 0x0000000312000000)) = some (.badstate, 0) := by
  decide

/-- The assembler syntax of 30_encoding.md R101. -/
theorem test_asm : (Instr.arbClaim 3 8).asm = "ARB.CLAIM 3, 8" := by rfl

/-! ## One step of each command, from the vectors of 95_test_vectors.md -/

/-- L1, line 5. -/
theorem test_ldc : see (exec (.bqLdc 0 0 0 8) baseB) (fun t => ((stageOf t 0 0).coef[0], (stageOf t 0 0).cval[0])) =
    some (8, true) := by decide
/-- L1, line 21. -/
theorem test_ldc_armed : answer (exec (.bqLdc 0 0 0 8) { baseB with armed := true }) = some (.badstate, 0) := by decide
/-- L1, lines 1 and 12. -/
theorem test_rds : answer (exec (.bqRds 0 0 0) baseB) = some (.badstate, 0) ∧
    answer (exec (.bqRds 0 0 0) halfS) = some (.ok, 8) := by decide
/-- L1, line 11: y = 1, rem = 8. -/
theorem test_step : answer (exec (.bqStep 0 0 3) halfS) = some (.ok, 1) ∧
    see (exec (.bqStep 0 0 3) halfS) (fun t => (stageOf t 0 0).rem) = some 8 := by decide
/-- F3, step 1: a negative sum rounds down and leaves a non-negative remainder. -/
theorem test_step_negative : answer (exec (.bqStep 0 0 0xFFFFFFFD) halfS) = some (.ok, 0xFFFFFFFE) ∧
    see (exec (.bqStep 0 0 0xFFFFFFFD) halfS) (fun t => (stageOf t 0 0).rem) = some 8 := by decide
/-- The example of 41_iir_filter.md R140. -/
theorem test_chain :
    answer (exec (.bqChain 0 12) (setStage halfS 0 1 (stageWith #v[8, 0, 0, 0, 0]))) = some (.ok, 3) := by decide
/-- A1: the worked frame's left input. -/
theorem test_al_in : answer (exec (.alIn 0x80000000) base) = some (.ok, 0xFF800000) := by decide
/-- A2: the worked frame's right output. -/
theorem test_al_out : answer (exec (.alOut 0xFF800000) base) = some (.ok, 0xC0000000) := by decide
/-- Q1: FULL on a full OUT buffer. -/
theorem test_wr_full : answer (exec (.rbWr 1 5) (setBuf base 1 (outHolding 4))) = some (.full, 0) := by decide
theorem test_wr : see (exec (.rbWr 1 5) (setBuf base 1 (outHolding 3)))
    (fun t => ((bufOf t 1).head, Memory.read (bufOf t 1).mem 3)) = some (4, some 5) := by decide
/-- A held RB.WRB leaves no response. -/
theorem test_wrb_held : see (exec (.rbWrb 1 5) (setBuf base 1 (outHolding 4))) (fun t => t.trace) = some [] := by decide
theorem test_wrb : see (exec (.rbWrb 1 5) base) (fun t => Memory.read (bufOf t 1).mem 0) = some (some 5) := by decide
theorem test_rd : answer (exec (.rbRd 0) (setBuf base 0 inFull)) = some (.ok, 0x10) := by decide
theorem test_rd_empty : answer (exec (.rbRd 0) base) = some (.empty, 0) := by decide
theorem test_rdb : see (exec (.rbRdb 0) (setBuf base 0 inFull)) (fun t => (bufOf t 0).tail) = some 1 := by decide
theorem test_rdb_held : see (exec (.rbRdb 0) base) (fun t => t.trace) = some [] := by decide
/-- P1, line 14. -/
theorem test_begin : see (exec (.rbBegin 0 0 0 true 0x50200024) (unitS .claimed))
    (fun t => ((bufOf t 0).bound, (bufOf t 0).fifoAddr)) = some (true, 0x50200024) := by decide
/-- An address that is not a multiple of 4 is fatal (43_ringbuffer.md R183). -/
theorem test_begin_fatal : see (exec (.rbBegin 0 0 0 true 0x50200022) (unitS .claimed))
    (fun t => (t.halt, t.errCode)) = some (true, 0x83) := by decide
theorem test_ack : see (exec (.rbAck 0) (setBuf base 0 { inFull with irqPend := true })) (fun t => (bufOf t 0).irqPend) =
    some false := by decide
/-- B3, first line, for core 0. -/
theorem test_claim : see (exec (.arbClaim 2 12) base) (fun t => (t.lock, t.arbState)) = some (⟨true, 0⟩, .scan) := by
  decide
/-- B5. -/
theorem test_claim_deadlock : see (exec (.arbClaim 1 4) { claimS .load with issuer := ⟨0, .H⟩ })
    (fun t => (t.halt, t.errCode, t.lock.held)) = some (true, 0x82, true) := by decide
/-- G1, lines 2 and 3. -/
theorem test_en : see (exec (.seqEn 0 0) (unitS .claimed)) (fun t => unitStateOf t ⟨0, 0⟩) = some .waiting ∧
    answer (exec (.seqEn 0 0) (unitS .waiting)) = some (.badstate, 0) := by decide
/-- G1, line 8. -/
theorem test_arm : answer (exec .syncArm (unitS .waiting)) = some (.ok, 1) ∧
    see (exec .syncArm (unitS .waiting)) (fun t => (unitStateOf t ⟨0, 0⟩, t.armed)) = some (.running, true) := by decide
/-- K1. -/
theorem test_csr : answer (exec (.csrRd 0x108) baseB) = some (.ok, 2) ∧
    answer (exec (.csrRd 0x000) baseB) = some (.ok, 0) := by decide
/-- B3, RECORD: the table entry 0x80000C00 of program 2, here 0x80000800 for length 8. -/
theorem test_record : see (runEvent .arb placedS) (fun t => (csrTable (entryOf t 0 0), t.lock.held)) =
    some (0x80000800, false) := by decide
/-- P4, line 15: a frame that does not fit is dropped. -/
theorem test_engine_drop : see (runEvent (.xfer 0) (runningS inFull (outHolding 0)))
    (fun t => ((bufOf t 0).overrun, (bufOf t 0).drops, (bufOf t 0).head)) = some (true, 1, 4) := by decide
/-- P4, line 14: silence on an empty ring. -/
theorem test_engine_silence : see (runEvent (.xfer 1) (runningS inWire (outHolding 0)))
    (fun t => ((bufOf t 1).wireOut, (bufOf t 1).underrun)) = some ([0], true) := by decide

/-! ## Witnesses: a state and operands that meet the hypotheses of each statement, clause by clause -/

/-- A step that serves `cw`, `data` on `s`. -/
abbrev serves (cw data : Word) (s : State) : Prop := ∃ t, step (serving cw data s) = .next t

/-- EncodeOfDecodeGivesTheWords: a format D and a format N word. -/
theorem wit_encode_of_decode :
    (decode 0x12120000 5 = .ok (.bqStep 1 2 5) ∧ (Instr.bqStep 1 2 5).opcode.format = .D) ∧
    (decode 0x31130000 7 = .ok (.seqEn 1 3) ∧ (Instr.seqEn 1 3).opcode.format = .N) := by decide

/-- IllegalWordsAreAnsweredIllegal: a matched word, a reserved opcode, a must-be-zero bit set. -/
theorem wit_illegal :
    (∃ i, decode 0x32000000 0 = .ok i) ∧ (⟨.arm, 0x32000000, 0xFFFFFFFF⟩ : OpRow).matches 0x32000000 = true ∧
    (∀ o ∈ Opcode.all, o.code ≠ (0x33000000 : Word).extractLsb' 24 8) ∧
    base.halt = false ∧ (∀ r ∈ opTable, r.matches 0x32100000 = false) :=
  ⟨⟨.syncArm, by decide⟩, by decide, by decide, by decide, by decide⟩

/-- A word that does not decode spells no command. -/
theorem not_ok {cw data : Word} (h : (decode cw data).toOption = none) : ∀ i, decode cw data ≠ .ok i := by
  intro i hi
  simp [hi, Except.toOption] at h

/-- StepRunsTheDecodedCommand: an event on the agenda, an empty agenda, a command, an illegal word, a claim in
progress, and the same in HALT. -/
theorem wit_step_runs :
    (base.agenda = [] ∧ (serving 0x32000000 0 base).agenda = [.serve ⟨0, .T⟩]) ∧
    ((nextEvent (serving 0x32000000 0 base)).1 = .serve ⟨0, .T⟩ ∧
      slotOf (serving 0x32000000 0 base) ⟨0, .T⟩ = some ⟨0x32000000, 0⟩ ∧
      claimInProgress (serving 0x32000000 0 base) ⟨0, .T⟩ = false ∧ decode 0x32000000 0 = .ok .syncArm) ∧
    (∀ i, decode 0x33000000 0 ≠ .ok i) ∧
    (claimInProgress (claimS .scan) ⟨0, .T⟩ = true ∧ (claimS .scan).halt = false) ∧
    (claimInProgress { claimS .scan with halt := true } ⟨0, .T⟩ = true) :=
  ⟨by decide, by decide, not_ok (by decide), by decide, by decide⟩

/-- HaltedCommandsAreRefused: a command, an illegal word, a CSR read. -/
theorem wit_halted :
    haltedS.halt = true ∧ (∀ csr, decode 0x25000000 0 ≠ .ok (.csrRd csr)) ∧
    (∀ csr, decode 0xFFFFFFFF 0 ≠ .ok (.csrRd csr)) ∧ decode 0x3F000000 0 = .ok (.csrRd 0) :=
  ⟨rfl, fun _ h => (nomatch (show decode 0x25000000 0 = .ok (.rbAck 0) by decide).symm.trans h),
    fun _ => not_ok (by decide) _, by decide⟩

/-- SelectorsOutOfRangeAreBadsel: an ill-formed and a well-formed command, and both as CSR reads in HALT. -/
theorem wit_badsel :
    (decode 0x31140000 0 = .ok (.seqEn 1 4) ∧ base.halt = false ∧ (Instr.seqEn 1 4).wellFormed base.cfg = false) ∧
    (decode 0x31130000 0 = .ok (.seqEn 1 3) ∧ base.cfg.Valid ∧ (Instr.seqEn 1 3).wellFormed base.cfg = true ∧
      ∃ t, executeCommand ⟨0x31130000, 0⟩ base = .next t) ∧
    (decode 0x3F000004 0 = .ok (.csrRd 0x004) ∧ haltedS.halt = true ∧
      (Instr.csrRd 0x004).wellFormed haltedS.cfg = false) ∧
    (decode 0x3F000003 0 = .ok (.csrRd 0x003) ∧ (Instr.csrRd 0x003).wellFormed haltedS.cfg = true) :=
  ⟨by decide, ⟨by decide, by decide, by decide, ⟨_, rfl⟩⟩, by decide, by decide⟩

/-- EverySlotHasTheSameRights: an answered and a held command. -/
theorem wit_every_slot :
    (Instr.syncArm).opcode ≠ .claim ∧ (Instr.syncArm).opcode ≠ .begin_ ∧
    (∃ t, exec .syncArm (setIssuer ⟨1, .H⟩ base) = .next t) ∧
    (Instr.rbRdb 0).opcode ≠ .claim ∧ (Instr.rbRdb 0).opcode ≠ .begin_ ∧
    exec (.rbRdb 0) (setIssuer ⟨1, .H⟩ base) = .next (setIssuer ⟨1, .H⟩ base) :=
  ⟨by decide, by decide, ⟨_, rfl⟩, by decide, by decide, rfl⟩

/-- LdcLoadsOneCoefficient and IdentMakesAnIdentityStage: the last stage and the last coefficient of CFG-B. -/
theorem wit_ldc :
    baseB.halt = false ∧ baseB.armed = false ∧ (0#4).toNat = (0 : Chan).val ∧ (1#4).toNat = (1 : Idx).val ∧
    (1 : Idx).val < baseB.cfg.nSt[(0 : Chan)] ∧ (4#3).toNat = (4 : Fin 5).val ∧
    ∃ j : Fin 5, j ≠ 4 := ⟨by decide, by decide, by decide, by decide, by decide, by decide, 0, by decide⟩

/-- CoefficientsAreFixedOnceArmed. -/
theorem wit_fixed :
    ({ base with armed := true }.halt = false ∧ { base with armed := true }.armed = true ∧
      (Instr.bqLdc 1 0 4 0).wellFormed { base with armed := true }.cfg = true) ∧
    (∃ t, step (about .arb { base with armed := true }) = .next t) ∧
    (nextEvent (about .arb { base with armed := true })).1 ≠ .reset :=
  ⟨by decide, ⟨_, rfl⟩, by decide⟩

/-- RdsReadsTheNamedRegister: loaded and unloaded coefficients, each further register, both depths. -/
theorem wit_rds :
    base.halt = false ∧ identS.halt = false ∧ (1#4).toNat = (1 : Chan).val ∧ (0#4).toNat = (0 : Idx).val ∧
    (0 : Idx).val < identS.cfg.nSt[(1 : Chan)] ∧ (0#4).toNat = (0 : Fin 5).val ∧ (4#4).toNat = (4 : Fin 5).val ∧
    (stageOf identS 1 0).cval[(4 : Fin 5)] = true ∧ (stageOf base 1 0).cval[(4 : Fin 5)] = false ∧
    (5#4).toNat = 5 ∧ (6#4).toNat = 6 ∧ (7#4).toNat = 7 ∧ (8#4).toNat = 8 ∧ (9#4).toNat = 9 := by decide

/-- The sum that StepFiltersOneSample bounds. -/
def sumOf (s : State) (x : Word) (ch' : Chan) (i : Idx) : Int :=
  let g := stageOf s ch' i
  let two : Int := match s.cfg.depth with | .two => 1 | .one => 0
  g.rem +
    (g.coef[0].toInt * x.toInt + g.coef[1].toInt * g.x1.toInt + two * (g.coef[2].toInt * g.x2.toInt)) +
    (match s.cfg.fbSign with | .minus => -1 | .plus => 1) *
      (g.coef[3].toInt * g.y1.toInt + two * (g.coef[4].toInt * g.y2.toInt))

/-- A stage whose sum is the least the accumulator holds: −2^31 · 2^31 + −2^31 · 2^31. -/
def extremeS (d : Depth) : State :=
  setStage { baseB with cfg := { Config.cfgB with q := 30, depth := d } } 0 0
    { stageWith #v[0x80000000, 0x80000000, 0, 0, 0] with x1 := 0x7FFFFFFF }

/-- StepFiltersOneSample: the sum near the accumulator's lower end, at both depths, and the output at the
word's lower end. -/
theorem wit_step :
    (∀ d, (extremeS d).halt = false ∧ (0 : Idx).val < (extremeS d).cfg.nSt[(0 : Chan)] ∧
      (∀ k : Fin 5, (stageOf (extremeS d) 0 0).cval[k] = true) ∧ (extremeS d).cfg.depth = d ∧
      -(2 ^ 63) ≤ sumOf (extremeS d) 0x7FFFFFFF 0 0 ∧ sumOf (extremeS d) 0x7FFFFFFF 0 0 < 2 ^ 63) ∧
    -(2 ^ 31) ≤ sumOf identS 0x80000000 0 0 / 2 ^ identS.cfg.q ∧
    sumOf identS 0x80000000 0 0 / 2 ^ identS.cfg.q < 2 ^ 31 :=
  ⟨fun d => by cases d <;> decide, by decide, by decide⟩

/-- UnloadedStagesRefuse. -/
theorem wit_unloaded :
    baseB.halt = false ∧ (0#4).toNat = (0 : Chan).val ∧ (1#4).toNat = (1 : Idx).val ∧
    (1 : Idx).val < baseB.cfg.nSt[(0 : Chan)] ∧ (stageOf baseB 0 1).cval[(4 : Fin 5)] = false := by decide

/-- A machine whose channels have no stage. -/
def noStageS : State := State.resetWith { Config.cfgA with nSt := #v[0, 0] }

/-- ChainEqualsStepsInTurn: a chain of one stage and the empty chain. -/
theorem wit_chain :
    identS.halt = false ∧ (1#4).toNat = (1 : Chan).val ∧
    (∀ i : Idx, i.val < identS.cfg.nSt[(1 : Chan)] → ∀ k : Fin 5, (stageOf identS 1 i).cval[k] = true) ∧
    noStageS.halt = false ∧
    (∀ i : Idx, i.val < noStageS.cfg.nSt[(1 : Chan)] → ∀ k : Fin 5, (stageOf noStageS 1 i).cval[k] = true) ∧
    noStageS.cfg.nSt[(1 : Chan)] = 0 := by decide

/-- The identity stage of CFG-A with the greatest remainder. -/
def fullRemStage : Stage := { stageWith #v[0x40000000, 0, 0, 0, 0] with rem := 2 ^ 30 - 1 }

/-- IdentityStagesReturnTheirInput, with the greatest remainder, and EndToEndFrame. -/
theorem wit_identity :
    (Config.cfgA.Valid ∧ IdentityStage Config.cfgA fullRemStage ∧ fullRemStage.rem < 2 ^ Config.cfgA.q) ∧
    (identS.cfg.Valid ∧ identS.cfg.inShift = 8 ∧ identS.cfg.outShift = 7 ∧ identS.halt = false ∧
      ∀ (ch : Chan) (i : Idx), i.val < identS.cfg.nSt[ch] →
        IdentityStage identS.cfg (stageOf identS ch i) ∧ (stageOf identS ch i).rem < 2 ^ identS.cfg.q) := by
  unfold IdentityStage
  exact ⟨⟨by decide, by decide, by decide⟩, by decide, by decide, by decide, by decide, by decide⟩

/-- TruncationErrorIsOnlyDelayed: vector F3's first two samples. -/
theorem wit_truncation : NoOverflow Config.cfgB (stageWith #v[8, 0, 0, 0, 0]) [3, 0xFFFFFFFD] :=
  ⟨by decide, by decide, by decide, by decide, trivial⟩

/-- AccSafeKeepsTheSumInRange: magnitudes that add up to 2^32 − 1 exactly, Q = 30. -/
theorem wit_acc_safe :
    Config.cfgA.q ≤ 30 ∧ (stageWith #v[0x7FFFFFFF, 0x80000000, 0, 0, 0]).rem < 2 ^ Config.cfgA.q ∧
    AccSafe (stageWith #v[0x7FFFFFFF, 0x80000000, 0, 0, 0]) := by unfold AccSafe; decide

/-- RemaindersStayInRange: a filter step. -/
theorem wit_remainders :
    RemaindersInRange (serving 0x12000000 3 halfS) ∧ serves 0x12000000 3 halfS := by
  unfold RemaindersInRange; exact ⟨by decide, _, rfl⟩

/-- AlInShiftsRight and AlOutShiftsLeft: shifts by 0 and by 31, and samples at both ends of the exact range. -/
theorem wit_align :
    base.halt = false ∧ { base with cfg := { Config.cfgA with inShift := 0, outShift := 31 } }.cfg.inShift = 0 ∧
    { base with cfg := { Config.cfgA with inShift := 0, outShift := 31 } }.cfg.outShift ≤ 31 ∧
    (-(2 ^ (31 - base.cfg.outShift)) ≤ (0xFF000000 : Word).toInt ∧
      (0x00FFFFFF : Word).toInt ≤ 2 ^ (31 - base.cfg.outShift) - 1) := by decide

/-- QueuePrimitivesMoveOneWord, RingIsAFifoQueue: room for one word, and one word held. -/
theorem wit_queue :
    0 < (bufCfg base 1).n ∧ 1 = freeWords (bufCfg base 1) (outHolding 3) ∧
    1 = fill (bufCfg base 1) (outHolding 1) ∧ Memory.read (outHolding 1).mem (0 % 4) = some 0xA0 ∧
    RingInv (bufCfg base 1) (outHolding 3) ∧ fill (bufCfg base 1) (outHolding 3) < 4 ∧
    RingInv (bufCfg base 1) (outHolding 1) ∧ fill (bufCfg base 1) (outHolding 1) ≠ 0 := by
  unfold RingInv; decide

/-- AckClearsThePendingBit: the last buffer. -/
theorem wit_ack : base.halt = false ∧ (1#4).toNat = (1 : Idx).val ∧ (1 : Idx).val < base.cfg.nBuf := by decide

/-- WritesEnqueueOrReportFull: room for one word, and none. -/
theorem wit_writes :
    (1#4).toNat = (1 : Idx).val ∧ (1 : Idx).val < (setBuf base 1 (outHolding 3)).cfg.nBuf ∧
    (1 : Idx).val < (setBuf base 1 (outHolding 4)).cfg.nBuf ∧
    (bufCfg (setBuf base 1 (outHolding 3)) 1).dir = .output ∧ 0 < (bufCfg (setBuf base 1 (outHolding 3)) 1).n ∧
    1 = freeWords (bufCfg (setBuf base 1 (outHolding 3)) 1) (bufOf (setBuf base 1 (outHolding 3)) 1) ∧
    freeWords (bufCfg (setBuf base 1 (outHolding 4)) 1) (bufOf (setBuf base 1 (outHolding 4)) 1) = 0 ∧
    (setBuf base 1 (outHolding 3)).halt = false ∧ (setBuf base 1 (outHolding 4)).halt = false := by decide

/-- ReadsDequeueOrReportEmpty: the last word, and none. -/
theorem wit_reads :
    let s := setBuf base 0 { inFull with tail := 3 }
    s.halt = false ∧ (0#4).toNat = (0 : Idx).val ∧ (0 : Idx).val < s.cfg.nBuf ∧ (0 : Idx).val < base.cfg.nBuf ∧
    (bufCfg s 0).dir = .input ∧ 0 < (bufCfg s 0).n ∧ 1 = fill (bufCfg s 0) (bufOf s 0) ∧
    Memory.read (bufOf s 0).mem ((bufOf s 0).tail % (bufCfg s 0).n) = some 0x21 ∧
    fill (bufCfg base 0) (bufOf base 0) = 0 := by decide

/-- WrongDirectionIsBadstate: one buffer of each direction. -/
theorem wit_direction :
    base.halt = false ∧ (0#4).toNat = (0 : Idx).val ∧ (1#4).toNat = (1 : Idx).val ∧ (0 : Idx).val < base.cfg.nBuf ∧
    (1 : Idx).val < base.cfg.nBuf ∧ (bufCfg base 0).dir = .input ∧ (bufCfg base 1).dir = .output := by decide

/-- BeginBindsTheBuffer: a CLAIMED and a WAITING unit, the other buffer bound to another unit. -/
theorem wit_begin :
    let s := setUnit (setBuf (unitS .claimed) 1 { Buffer.reset with bound := true, trig := ⟨0, 1⟩ }) ⟨1, 3⟩ .waiting
    s.halt = false ∧ (0#4).toNat = (0 : Idx).val ∧ (0 : Idx).val < s.cfg.nBuf ∧
    (0#4).toNat = (⟨0, 0⟩ : UnitId).blk.val ∧ (0#4).toNat = (⟨0, 0⟩ : UnitId).u.val ∧ (1#4).toNat = (⟨1, 3⟩ : UnitId).blk.val ∧
    (3#4).toNat = (⟨1, 3⟩ : UnitId).u.val ∧ (⟨1, 3⟩ : UnitId).u.val < s.cfg.u ∧
    (bufOf s 0).bound = false ∧ (0x50200024 : Word).toNat % 4 = 0 ∧ unitStateOf s ⟨0, 0⟩ = .claimed ∧
    unitStateOf s ⟨1, 3⟩ = .waiting ∧
    (∀ j : Idx, j ≠ 0 → j.val < s.cfg.nBuf → (bufOf s j).bound = true →
      (bufOf s j).trig ≠ ⟨0, 0⟩ ∧ (bufOf s j).trig ≠ ⟨1, 3⟩) := by decide

/-- BeginThatCannotArmIsFatal: each of the causes. -/
theorem wit_begin_fatal :
    (0#4).toNat = (0 : Idx).val ∧ (0 : Idx).val < base.cfg.nBuf ∧ (0#4).toNat = (⟨0, 0⟩ : UnitId).blk.val ∧
    (0#4).toNat = (⟨0, 0⟩ : UnitId).u.val ∧ (⟨0, 0⟩ : UnitId).u.val < base.cfg.u ∧
    (runningS inFull (outHolding 0)).cfg = base.cfg ∧ (unitS .free).cfg = base.cfg ∧ (unitS .running).cfg = base.cfg ∧
    (bufOf (runningS inFull (outHolding 0)) 0).bound = true ∧ (0x50200022 : Word).toNat % 4 ≠ 0 ∧
    unitStateOf (unitS .free) ⟨0, 0⟩ = .free ∧ unitStateOf (unitS .running) ⟨0, 0⟩ = .running ∧
    (let s := setBuf (unitS .claimed) 1 { Buffer.reset with bound := true }
     (1 : Idx) ≠ 0 ∧ (1 : Idx).val < s.cfg.nBuf ∧ (bufOf s 1).bound = true ∧ (bufOf s 1).trig = ⟨0, 0⟩) ∧
    (runningS inFull (outHolding 0)).halt = false := by decide

/-! ### The engines -/

/-- The IN buffer half full: the next frame just fits. -/
def inHalf : Buffer := { inWire with mem := [(0, 0x10), (1, 0x11)], head := 2, winPos := 2, units := 1, irqPend := true }
/-- The IN buffer in the middle of an accepted frame. -/
def inAccepting : Buffer := { inWire with mem := [(0, 0x10)], head := 1, winPos := 1, phase := 1, latch := true, ucount := 1 }
/-- The IN buffer in the middle of a dropped frame. -/
def inDropping : Buffer := { inFull with winPos := 5, phase := 1, latch := false, ucount := 1, overrun := true, drops := 1 }
/-- The OUT buffer in the middle of a frame from the ring. -/
def outSending : Buffer := { outHolding 2 with tail := 1, wireOut := [0xA0], phase := 1, latch := true, ucount := 1 }
/-- The OUT buffer in the middle of a frame of silence. -/
def outSilent : Buffer := { outHolding 0 with wireOut := [0], phase := 1, underrun := true, drops := 1, ucount := 1 }

/-- The IN buffer full, with a word read by the foreground: one word of room. -/
def inOneFree : Buffer := { inFull with tail := 1 }

/-- The invariant from its parts, each small enough to decide. -/
theorem buffersInv_of {s : State} (hv : s.cfg.Valid)
    (hr : ∀ b : Idx, b.val < s.cfg.nBuf → RingInv (bufCfg s b) (bufOf s b))
    (he : ∀ b : Idx, b.val < s.cfg.nBuf → (bufOf s b).phase < 2 ∧ (bufOf s b).ucount < (bufCfg s b).xferUnit ∧
      (bufOf s b).ucount % 2 = (bufOf s b).phase)
    (hi : ∀ b : Idx, b.val < s.cfg.nBuf → (bufCfg s b).dir = .input →
      (bufOf s b).head % 2 = (if (bufOf s b).phase = 1 ∧ (bufOf s b).latch = true then 1 else 0) ∧
      (bufOf s b).winPos % 2 = (bufOf s b).phase ∧
      ((bufOf s b).phase = 1 → (bufOf s b).latch = true → 1 ≤ freeWords (bufCfg s b) (bufOf s b)) ∧
      (bufOf s b).underrun = false ∧ (bufOf s b).wireOut = [])
    (ho : ∀ b : Idx, b.val < s.cfg.nBuf → (bufCfg s b).dir = .output →
      (bufOf s b).tail % 2 = (if (bufOf s b).phase = 1 ∧ (bufOf s b).latch = true then 1 else 0) ∧
      (bufOf s b).wireOut.length % 2 = (bufOf s b).phase ∧
      ((bufOf s b).phase = 1 → (bufOf s b).latch = true → 1 ≤ fill (bufCfg s b) (bufOf s b)) ∧
      (bufOf s b).overrun = false ∧ (bufOf s b).winPos = 0) : BuffersInv s :=
  ⟨hv, fun b hb => ⟨hr b hb, (he b hb).1, (he b hb).2.1, (he b hb).2.2, hi b hb, ho b hb⟩⟩

theorem inv_full : BuffersInv (runningS inFull (outHolding 2)) :=
  buffersInv_of (by decide) (by unfold RingInv; decide) (by decide) (by decide) (by decide)
theorem inv_half : BuffersInv (runningS inHalf outSending) :=
  buffersInv_of (by decide) (by unfold RingInv; decide) (by decide) (by decide) (by decide)
theorem inv_accepting : BuffersInv (runningS inAccepting outSilent) :=
  buffersInv_of (by decide) (by unfold RingInv; decide) (by decide) (by decide) (by decide)
theorem inv_dropping : BuffersInv (runningS inDropping (outHolding 1)) :=
  buffersInv_of (by decide) (by unfold RingInv; decide) (by decide) (by decide) (by decide)
theorem inv_one_free : BuffersInv (runningS inOneFree (outHolding 0)) :=
  buffersInv_of (by decide) (by unfold RingInv; decide) (by decide) (by decide) (by decide)

/-- The invariant does not speak of HALT, and only names the buffers and the configuration. -/
theorem buffersInv_congr {s t : State} (hb : t.bufs = s.bufs) (hc : t.cfg = s.cfg) (h : BuffersInv s) : BuffersInv t := by
  unfold BuffersInv bufOf bufCfg at *
  rw [hb, hc]
  exact h

/-- EngineStepsExactlyWhenRunning: an engine that runs, in HALT too, one whose unit waits, one unbound. -/
theorem wit_engine_steps :
    (let s := { runningS inFull (outHolding 2) with halt := true }
     BuffersInv s ∧ ((bufOf s 0).bound = true ∧ unitStateOf s (bufOf s 0).trig = .running) ∧
      ((bufOf s 1).bound = true ∧ unitStateOf s (bufOf s 1).trig = .running) ∧ (bufCfg s 0).dir = .input ∧
      (bufCfg s 1).dir = .output ∧ (0 : Idx).val < s.cfg.nBuf ∧ (1 : Idx).val < s.cfg.nBuf) ∧
    (let s := setUnit (runningS inFull (outHolding 2)) ⟨0, 0⟩ .waiting
     BuffersInv s ∧ (0 : Idx).val < s.cfg.nBuf ∧
      ¬ ((bufOf s 0).bound = true ∧ unitStateOf s (bufOf s 0).trig = .running)) ∧
    (BuffersInv base ∧ (0 : Idx).val < base.cfg.nBuf ∧
      ¬ ((bufOf base 0).bound = true ∧ unitStateOf base (bufOf base 0).trig = .running)) :=
  ⟨⟨buffersInv_congr rfl rfl inv_full, by decide, by decide, by decide, by decide, by decide, by decide⟩,
    ⟨buffersInv_congr rfl rfl inv_full, by decide, by decide⟩,
    buffersInv_of (by decide) (by unfold RingInv; decide) (by decide) (by decide) (by decide), by decide, by decide⟩

/-- InputEngineMovesOneWord: a frame that just fits, one word short of fitting, the second words. -/
theorem wit_input_engine :
    (BuffersInv (runningS inHalf outSending) ∧ xferEnabled (runningS inHalf outSending) 0 = true ∧
      (bufCfg (runningS inHalf outSending) 0).dir = .input ∧ inHalf.phase = 0 ∧ 2 = freeWords (bufCfg base 0) inHalf) ∧
    (BuffersInv (runningS inOneFree (outHolding 0)) ∧ xferEnabled (runningS inOneFree (outHolding 0)) 0 = true ∧
      inOneFree.phase = 0 ∧ freeWords (bufCfg base 0) inOneFree = 1) ∧
    (BuffersInv (runningS inAccepting outSilent) ∧ xferEnabled (runningS inAccepting outSilent) 0 = true ∧
      inAccepting.phase = 1 ∧ inAccepting.latch = true) ∧
    (BuffersInv (runningS inDropping (outHolding 1)) ∧ xferEnabled (runningS inDropping (outHolding 1)) 0 = true ∧
      inDropping.phase = 1 ∧ inDropping.latch = false) :=
  ⟨⟨inv_half, by decide, by decide, by decide, by decide⟩, ⟨inv_one_free, by decide, by decide, by decide⟩,
    ⟨inv_accepting, by decide, by decide, by decide⟩, inv_dropping, by decide, by decide, by decide⟩

/-- OutputEngineMovesOneWord: a frame just there, one word short, the second words. -/
theorem wit_output_engine :
    (BuffersInv (runningS inFull (outHolding 2)) ∧ xferEnabled (runningS inFull (outHolding 2)) 1 = true ∧
      (bufCfg (runningS inFull (outHolding 2)) 1).dir = .output ∧ (outHolding 2).phase = 0 ∧
      fill (bufCfg base 1) (outHolding 2) = 2) ∧
    (BuffersInv (runningS inDropping (outHolding 1)) ∧ xferEnabled (runningS inDropping (outHolding 1)) 1 = true ∧
      (outHolding 1).phase = 0 ∧ fill (bufCfg base 1) (outHolding 1) = 1) ∧
    (BuffersInv (runningS inHalf outSending) ∧ xferEnabled (runningS inHalf outSending) 1 = true ∧
      outSending.phase = 1 ∧ outSending.latch = true) ∧
    (BuffersInv (runningS inAccepting outSilent) ∧ xferEnabled (runningS inAccepting outSilent) 1 = true ∧
      outSilent.phase = 1 ∧ outSilent.latch = false) :=
  ⟨⟨inv_full, by decide, by decide, by decide, by decide⟩, ⟨inv_dropping, by decide, by decide, by decide⟩,
    ⟨inv_half, by decide, by decide, by decide⟩, inv_accepting, by decide, by decide, by decide⟩

/-- BuffersInvIsKept and NoStepStops: an engine step, and a served read. -/
theorem wit_buffers_inv :
    (BuffersInv (about (.xfer 0) (runningS inHalf outSending)) ∧
      ∃ t, step (about (.xfer 0) (runningS inHalf outSending)) = .next t) ∧
    (BuffersInv (serving 0x22000000 0 (runningS inFull (outHolding 2))) ∧
      serves 0x22000000 0 (runningS inFull (outHolding 2))) :=
  ⟨⟨inv_half, _, rfl⟩, inv_full, _, rfl⟩

/-- WireWordsStayInOrder: half full on the wire's first words. -/
theorem wit_wire :
    BuffersInv (about (.xfer 0) (runningS inHalf outSending)) ∧
    (bufCfg (about (.xfer 0) (runningS inHalf outSending)) 0).dir = .input ∧
    WireInOrder (about (.xfer 0) (runningS inHalf outSending)) 0 ∧
    ∃ t, step (about (.xfer 0) (runningS inHalf outSending)) = .next t :=
  ⟨inv_half, by decide, by unfold WireInOrder; decide, _, rfl⟩

/-- EachSideOwnsItsIndex: each index moved by its owner. -/
theorem wit_owns :
    (see (step (about (.xfer 0) (runningS inHalf outSending))) (fun t => (bufOf t 0).head) = some 3 ∧
      see (step (serving 0x22000000 0 (runningS inFull (outHolding 2)))) (fun t => (bufOf t 0).tail) = some 1) ∧
    (see (step (about (.xfer 1) (runningS inHalf outSending))) (fun t => (bufOf t 1).tail) = some 2 ∧
      see (step (serving 0x20100000 5 (runningS inHalf outSending))) (fun t => (bufOf t 1).head) = some 3) ∧
    (nextEvent (about (.xfer 0) (runningS inHalf outSending))).1 ≠ .reset := by decide

/-! ### The arbitrator -/

/-- ClaimIsAcceptedHeldOrDeadlocked: the last program, the greatest length; the lock free, held by the core,
held by the other core. -/
theorem wit_claim :
    (base.halt = false ∧ (3#4).toNat = (3 : Idx).val ∧ (3 : Idx).val < base.cfg.nProg ∧ 1 ≤ (32#8).toNat ∧
      (32#8).toNat ≤ base.cfg.m ∧ base.lock.held = false) ∧
    ((claimS .scan).halt = false ∧ (claimS .scan).lock.held = true ∧
      (claimS .scan).lock.owner = (claimS .scan).issuer.core ∧ (claimS .scan).cfg = base.cfg) ∧
    ({ claimS .scan with issuer := ⟨1, .T⟩ }.lock.held = true ∧
      { claimS .scan with issuer := ⟨1, .T⟩ }.lock.owner ≠ { claimS .scan with issuer := ⟨1, .T⟩ }.issuer.core) := by
  decide

/-- Only the last unit of the last block is FREE. -/
def lastFreeS : State := setUnit noUnitS ⟨1, 3⟩ .free

/-- ScanSelectsTheFirstFreeUnit: no unit free, and only the last one. -/
theorem wit_scan :
    (noUnitS.cfg.u ≤ 16 ∧ noUnitS.halt = false ∧ noUnitS.arbState = .scan ∧
      ∀ x : UnitId, x.u.val < noUnitS.cfg.u → unitStateOf noUnitS x ≠ .free) ∧
    (lastFreeS.cfg.u ≤ 16 ∧ lastFreeS.halt = false ∧ lastFreeS.arbState = .scan ∧
      (⟨1, 3⟩ : UnitId).u.val < lastFreeS.cfg.u ∧ unitStateOf lastFreeS ⟨1, 3⟩ = .free ∧
      ∀ y : UnitId, y.u.val < lastFreeS.cfg.u → unitStateOf lastFreeS y = .free →
        (1 : Blk) < y.blk ∨ ((1 : Blk) = y.blk ∧ (3 : Idx) ≤ y.u)) := by
  refine ⟨⟨by decide, by decide, by decide, ?_⟩, by decide, by decide, by decide, by decide, by decide, ?_⟩
  · rintro ⟨k, u⟩; revert k u; decide
  · rintro ⟨k, u⟩; revert k u; decide

/-- The claim in LOAD on a block with `n` words in use. -/
def loadS (n : Nat) : State := setBlk (claimS .load) 0 { Block.reset with imemUsed := n, loadCount := 1 }

/-- LoadPlacesTheProgramOnce: resident; just fitting; one word too long. -/
theorem wit_load :
    ((residentS .load).cfg.Valid ∧ (residentS .load).halt = false ∧ (residentS .load).arbState = .load ∧
      (entryOf (residentS .load) 0 0).valid = true) ∧
    ((loadS 24).cfg.Valid ∧ (loadS 24).halt = false ∧ (loadS 24).arbState = .load ∧
      (entryOf (loadS 24) 0 0).valid = false ∧ 24 + (loadS 24).arbReq.len.toNat = (loadS 24).cfg.m ∧
      (blkOf (loadS 24) (loadS 24).arbSel.unit.blk).imemUsed = 24) ∧
    ((loadS 25).cfg.Valid ∧ (loadS 25).halt = false ∧ (loadS 25).arbState = .load ∧
      (entryOf (loadS 25) 0 0).valid = false ∧ (loadS 25).cfg.m + 1 = 25 + (loadS 25).arbReq.len.toNat) :=
  ⟨by decide, by decide, by decide⟩

/-- RecordGrantsTheClaim: a resident program, and one just placed. -/
theorem wit_record :
    ((residentS .record).halt = false ∧ (residentS .record).arbState = .record ∧
      (entryOf (residentS .record) 0 0).valid = true) ∧
    (placedS.halt = false ∧ placedS.arbState = .record ∧ (entryOf placedS 0 0).valid = false) := by decide

/-- ClaimIsGrantedInThreeSteps: a program of the whole instruction memory. -/
theorem wit_granted :
    base.cfg.Valid ∧ base.halt = false ∧ (3#4).toNat = (3 : Idx).val ∧ (3 : Idx).val < base.cfg.nProg ∧
    1 ≤ (32#8).toNat ∧ (32#8).toNat ≤ base.cfg.m ∧ base.lock.held = false ∧
    (⟨0, 0⟩ : UnitId).u.val < base.cfg.u ∧ unitStateOf base ⟨0, 0⟩ = .free ∧
    (∀ y : UnitId, y.u.val < base.cfg.u → unitStateOf base y = .free →
      (0 : Blk) < y.blk ∨ ((0 : Blk) = y.blk ∧ (0 : Idx) ≤ y.u)) ∧
    (blkOf base 0).imemUsed + (32#8).toNat ≤ base.cfg.m := by
  refine ⟨by decide, by decide, by decide, by decide, by decide, by decide, by decide, by decide, by decide, ?_,
    by decide⟩
  rintro ⟨k, u⟩; revert k u; decide

/-- ArbInvIsKept, UnitsOnlyMoveForward, AStepAnswersAtMostOneCommand: between LOAD and RECORD. -/
theorem wit_arb_inv :
    ArbInv (about .arb placedS) ∧ (∃ t, step (about .arb placedS) = .next t) ∧
    (nextEvent (about .arb placedS)).1 ≠ .reset := by
  refine ⟨⟨by decide, by decide, by decide, by decide, by decide, by decide, by decide, ?_⟩, ⟨_, rfl⟩, by decide⟩
  intro k
  exact ⟨by revert k; decide, by revert k; decide, by revert k; decide, by revert k; decide, by revert k; decide⟩

/-! ### The start, CSRs, errors -/

/-- SeqEnEnablesAClaimedUnit: the last unit of block 1, CLAIMED and FREE. -/
theorem wit_en :
    let s := setUnit base ⟨1, 3⟩ .claimed
    s.halt = false ∧ (1#4).toNat = (⟨1, 3⟩ : UnitId).blk.val ∧ (3#4).toNat = (⟨1, 3⟩ : UnitId).u.val ∧
    (⟨1, 3⟩ : UnitId).u.val < s.cfg.u ∧ unitStateOf s ⟨1, 3⟩ = .claimed ∧ unitStateOf s ⟨1, 2⟩ ≠ .claimed := by
  decide

/-- SyncArmStartsEveryWaitingUnit: one unit WAITING, one not. -/
theorem wit_arm :
    (unitS .waiting).halt = false ∧ (0 : Idx).val < (unitS .waiting).cfg.u ∧
    unitStateOf (unitS .waiting) ⟨0, 0⟩ = .waiting ∧
    ¬ ((1 : Idx).val < (unitS .waiting).cfg.u ∧ unitStateOf (unitS .waiting) ⟨0, 1⟩ = .waiting) := by decide

/-- StartInvIsKept: an engine step with both buffers bound. -/
theorem wit_start_inv :
    StartInv (about (.xfer 0) (runningS inHalf outSending)) ∧
    ∃ t, step (about (.xfer 0) (runningS inHalf outSending)) = .next t := by
  refine ⟨⟨?_, ?_, ?_⟩, _, rfl⟩
  · intro h; exact absurd h (by decide)
  · decide
  · decide

/-- BlockCsrMap: the last unit and program, a full instruction memory. -/
theorem wit_block_csr :
    (loadS 32).cfg.Valid ∧ (3 : Idx).val < (loadS 32).cfg.u ∧ (blkOf (loadS 32) 0).imemUsed ≤ (loadS 32).cfg.m ∧
    (3 : Idx).val < (loadS 32).cfg.nProg := by decide

/-- BufferCsrMap: both buffers. -/
theorem wit_buffer_csr :
    BuffersInv (runningS inHalf outSending) ∧ (0 : Idx).val < (runningS inHalf outSending).cfg.nBuf ∧
    (1 : Idx).val < (runningS inHalf outSending).cfg.nBuf := ⟨inv_half, by decide, by decide⟩

/-- UnimplementedCsrsAreBadsel: the last of each group, and the number above it. -/
theorem wit_csr :
    base.cfg.Valid ∧ (0x02F : BitVec 12).toNat = 0x02F ∧ ¬ 0x02F ≤ 0x020 + base.cfg.nProg - 1 ∧
    (0x10F : BitVec 12).toNat = 0x100 + 8 * base.cfg.nBuf - 1 ∧
    (0x110 : BitVec 12).toNat = 0x100 + 8 * base.cfg.nBuf := by decide

/-- OnlyTheThreeErrorsEnterHalt: a failing SCAN, a failing LOAD, a second claim of the core, an RB.BEGIN on a FREE unit. -/
theorem wit_three_errors :
    (noUnitS.halt = false ∧ see (step (about .arb noUnitS)) (fun t => t.halt) = some true) ∧
    ((loadS 25).halt = false ∧ see (step (about .arb (loadS 25))) (fun t => t.halt) = some true) ∧
    (let s := about (.serve ⟨0, .H⟩) (setSlot (claimS .load) ⟨0, .H⟩ (some ⟨0x30000401, 0⟩))
     s.halt = false ∧ see (step s) (fun t => (t.halt, t.errCode)) = some (true, 0x82)) ∧
    (see (step (serving 0x24000100 0x50200024 base)) (fun t => (t.halt, t.errCode)) = some (true, 0x83)) := by
  decide

/-- HaltIsPermanent: a command served in HALT, and an engine that goes on. -/
theorem wit_halt :
    haltedS.halt = true ∧ (∃ t, step (about (.serve ⟨0, .T⟩) haltedS) = .next t) ∧
    (nextEvent (about (.serve ⟨0, .T⟩) haltedS)).1 ≠ .reset ∧
    (let s := about (.xfer 0) { runningS inHalf outSending with halt := true, errCode := 0x81#8 }
     see (step s) (fun t => decide (bufOf t 0 ≠ bufOf s 0)) = some true) :=
  ⟨rfl, ⟨_, rfl⟩, by decide, by decide⟩

/-- ErrorInvIsKept: in HALT and outside it. -/
theorem wit_error_inv :
    (ErrorInv (about .arb noUnitS) ∧ ∃ t, step (about .arb noUnitS) = .next t) ∧
    (ErrorInv (about (.serve ⟨0, .T⟩) haltedS) ∧ ∃ t, step (about (.serve ⟨0, .T⟩) haltedS) = .next t) := by
  unfold ErrorInv; exact ⟨⟨by decide, _, rfl⟩, by decide, _, rfl⟩

/-- PresentingFillsAnEmptySlot: an empty and an occupied slot. -/
theorem wit_present : slotOf base ⟨1, .H⟩ = none ∧ slotOf haltedS ⟨0, .T⟩ ≠ none := by decide

/-- InvariantsHoldAtReset: the test configurations, with a buffer of each direction. -/
theorem wit_reset :
    Config.cfgA.Valid ∧ Config.cfgB.Valid ∧ (bufCfg (State.resetWith Config.cfgB) 0).dir = .input := by decide

end Sys2Proof.Tests
end

section
/-! PROOFS. Taking the next event, decoding a command, serving a slot: one equation per branch, and the
statement that a step runs the command decoded from the served slot's words. -/

namespace Sys2Proof.Machine

/-! ## Taking the next event -/

theorem nextEvent_of_agenda_cons {s : State} {e : Event} {rest : List Event} (h : s.agenda = e :: rest) :
    nextEvent s = (e, setSchedule rest s.envPos s) := by
  simp [nextEvent, h]

theorem nextEvent_of_agenda_nil {s : State} (h : s.agenda = []) :
    nextEvent s = (Config.envEvent s.envPos, setSchedule [] (s.envPos + 1) s) := by
  simp [nextEvent, h]

@[simp] theorem nextEvent_slotOf (s : State) (p : Port) : slotOf (nextEvent s).2 p = slotOf s p :=
  nextEvent_onlyChanges s (.slot p) (by simp)

@[simp] theorem nextEvent_halt (s : State) : (nextEvent s).2.halt = s.halt :=
  (nextEvent_onlyChanges s .error (by simp)).1

@[simp] theorem nextEvent_claimInProgress (s : State) (p : Port) :
    claimInProgress (nextEvent s).2 p = claimInProgress s p := by
  obtain ⟨hState, hReq, -⟩ := nextEvent_onlyChanges s .arbiter (by simp)
  simp only [claimInProgress, hState, hReq]

/-! ## Executing the words of a command (30_encoding.md R97, R98) -/

theorem executeCommand_of_legal {c : Command} {i : Instr} (h : decode c.cw c.data = .ok i) (s : State) :
    executeCommand c s = exec i s := by
  simp [executeCommand, h]

theorem executeCommand_of_not_legal {c : Command} (h : ∀ i, decode c.cw c.data ≠ .ok i) (s : State) :
    executeCommand c s = .next (refuse (if s.halt then .halted else .illegal) s) := by
  unfold executeCommand
  split
  · next i hi => exact absurd hi (h i)
  · rfl

/-! ## Serving a slot (70_reset_and_hazards.md R270) -/

/-- A command that is not the claim in progress is executed, and in HALT the claim is too (log 21). -/
theorem serve_executes {s : State} {p : Port} {c : Command} (hc : slotOf s p = some c)
    (hw : claimInProgress s p = false ∨ s.halt = true) :
    serve p s = executeCommand c (setIssuer p s) := by
  have hwait : (claimInProgress s p && !s.halt) = false := by
    rcases hw with hw | hw <;> simp [hw]
  simp [serve, hc, hwait]

/-- Outside HALT the claim in progress waits for the arbitrator (log 21). -/
theorem serve_waits {s : State} {p : Port} (hw : claimInProgress s p = true) (hh : s.halt = false) :
    serve p s = .next s := by
  unfold serve
  split
  · rfl
  · simp [hw, hh]

theorem step_of_serve {s : State} {p : Port} (he : (nextEvent s).1 = .serve p) :
    step s = serve p (nextEvent s).2 := by
  simp only [step, he, runEvent]

/-- A step that serves a slot executes its words, unless they are the claim in progress outside HALT. -/
theorem step_serve_executes {s : State} {p : Port} {c : Command} (he : (nextEvent s).1 = .serve p)
    (hc : slotOf s p = some c) (hw : claimInProgress s p = false ∨ s.halt = true) :
    step s = executeCommand c (setIssuer p (nextEvent s).2) :=
  (step_of_serve he).trans (serve_executes (by simpa using hc) (by simpa using hw))

/-- Settles O5: each clause is one branch of `nextEvent`, `serve` or `executeCommand`. -/
theorem stepRunsTheDecodedCommand : Obligations.StepRunsTheDecodedCommand := by
  intro s
  refine ⟨fun _ _ => nextEvent_of_agenda_cons, nextEvent_of_agenda_nil, rfl, fun p c he hc => ⟨?_, ?_⟩⟩
  · intro hw
    have hstep := step_serve_executes he hc hw
    constructor
    · intro i hi
      exact hstep.trans (executeCommand_of_legal hi _)
    · intro hi
      simpa using hstep.trans (executeCommand_of_not_legal hi _)
  · intro hw hh
    exact (step_of_serve he).trans (serve_waits (by simpa using hw) (by simpa using hh))

end Sys2Proof.Machine
end

section
/-! PROOFS. The frames of the transitions that are no command: raising a fatal error, the steps of the
arbitrator, taking the next event; and what the reset values read as (10_state.md R46). -/

namespace Sys2Proof.Machine

variable (s : State)

/-! ## Frames -/

theorem onlyChanges_raiseFatal (e : FatalError) (p : Port) :
    OnlyChanges s (raiseFatal e p s) [.error, .slot p, .trace] := by
  by_cases hh : s.halt = true
  · rw [raiseFatal_halted e p s hh]
    exact (onlyChanges_respondTo p (fatalStatus e) 0 s).mono (by simp)
  · obtain ⟨-, hframe, -⟩ := raiseFatal_spec e p s (by simpa using hh)
    exact hframe

theorem onlyChanges_releaseLock : OnlyChanges s (releaseLock s) [.lock, .arbiter] := by
  intro part hp
  cases part <;> simp_all [unchanged]

theorem onlyChanges_setArb (st : ArbState) (sel : ArbSel) : OnlyChanges s (setArb st sel s) [.arbiter] := by
  intro part hp
  cases part <;> simp_all [unchanged]

/-- Placing a program touches the occupancy of its block only (42_arbitrator.md R154). -/
theorem onlyChanges_loadProgram (k : Blk) (len : BitVec 8) :
    OnlyChanges s (setBlk s k (loadProgram (blkOf s k) len)) [.occupancy k] := by
  intro part hp
  cases part with
  | unit y =>
    simp only [unchanged, unitStateOf_eq, blkOf_setBlk]
    split
    · next h => subst h; rfl
    · rfl
  | entry k' q =>
    simp only [unchanged, entryOf, blkOf_setBlk]
    split
    · next h => subst h; rfl
    · rfl
  | occupancy k' =>
    have hk : k ≠ k' := fun h => hp (by simp [h])
    simp [unchanged, blkOf_setBlk, hk]
  | _ => simp [unchanged]

/-- The units of the block that RECORD leaves: the chosen one is CLAIMED (42_arbitrator.md R155). -/
theorem unitStateOf_recordBlock (x y : UnitId) (p : Idx) (offset len : BitVec 8) :
    unitStateOf (setBlk s x.blk (recordBlock (blkOf s x.blk) p x.u offset len)) y =
      if x = y then .claimed else unitStateOf s y := by
  obtain ⟨k, u⟩ := x
  obtain ⟨k', u'⟩ := y
  simp only [unitStateOf_eq, blkOf_setBlk, recordBlock, UnitId.mk.injEq]
  by_cases hk : k = k'
  · subst hk
    by_cases hu : u = u'
    · subst hu; simp
    · have hv : u.val ≠ u'.val := fun e => hu (Fin.ext e)
      simp [hu, hv]
  · simp [hk]

theorem onlyChanges_recordBlock (x : UnitId) (p : Idx) (offset len : BitVec 8) :
    OnlyChanges s (setBlk s x.blk (recordBlock (blkOf s x.blk) p x.u offset len)) [.entry x.blk p, .unit x] := by
  intro part hp
  cases part with
  | unit y =>
    have hxy : x ≠ y := fun h => hp (by simp [h])
    simp [unchanged, unitStateOf_recordBlock, hxy]
  | entry k q =>
    simp only [unchanged, entryOf, blkOf_setBlk]
    split
    · next h =>
      subst h
      have hv : p.val ≠ q.val := fun e => hp (by simp [Fin.ext e])
      simp [recordBlock, hv]
    · rfl
  | occupancy k =>
    simp only [unchanged, blkOf_setBlk]
    split
    · next h => subst h; simp [recordBlock]
    · simp
  | _ => simp [unchanged]

/-- A claim that fails: the lock is free again and ResourceExhausted is raised (42_arbitrator.md R159). -/
theorem onlyChanges_failClaim :
    OnlyChanges s (failClaim s) [.lock, .arbiter, .error, .slot s.arbReq.port, .trace] :=
  (onlyChanges_releaseLock s).trans (onlyChanges_raiseFatal (releaseLock s) .resourceExhausted s.arbReq.port)

theorem onlyChanges_arbScan :
    OnlyChanges s (arbScan s) [.lock, .arbiter, .error, .slot s.arbReq.port, .trace] := by
  unfold arbScan
  split
  · exact onlyChanges_failClaim s
  · exact (onlyChanges_setArb s _ _).mono (by simp)

theorem onlyChanges_arbLoad :
    OnlyChanges s (arbLoad s)
      [.lock, .arbiter, .error, .slot s.arbReq.port, .trace, .occupancy s.arbSel.unit.blk] := by
  simp only [arbLoad]
  split
  · exact (onlyChanges_setArb s _ _).mono (by simp)
  · split
    · exact ((onlyChanges_loadProgram s _ _).trans (onlyChanges_setArb _ _ _)).mono (by simp)
    · exact (onlyChanges_failClaim s).mono (by simp)

theorem onlyChanges_arbRecord :
    OnlyChanges s (arbRecord s)
      [.entry s.arbSel.unit.blk s.arbReq.p, .unit s.arbSel.unit, .lock, .arbiter, .slot s.arbReq.port, .trace] :=
  ((onlyChanges_recordBlock s s.arbSel.unit s.arbReq.p _ _).trans (onlyChanges_releaseLock _)).trans
    (onlyChanges_respondTo s.arbReq.port .ok _ _)

theorem onlyChanges_setSlot (p : Port) (c : Option Command) : OnlyChanges s (setSlot s p c) [.slot p] := by
  intro part hp
  cases part with
  | slot q =>
    have hpq : p ≠ q := fun h => hp (by simp [h])
    simp [unchanged, slotOf_setSlot, hpq]
  | _ => simp [unchanged]

/-- The state in which the next event runs differs from `s` in the schedule only. -/
theorem nextEvent_eq_setSchedule : ∃ agenda envPos, (nextEvent s).2 = setSchedule agenda envPos s := by
  unfold nextEvent
  split
  · exact ⟨_, _, rfl⟩
  · exact ⟨_, _, rfl⟩

/-! ## The reset values -/

@[simp] theorem stageOf_resetWith (c : Config) (ch : Chan) (i : Idx) :
    stageOf (State.resetWith c) ch i = Stage.reset := by
  simp [stageOf, State.resetWith]

@[simp] theorem bufOf_resetWith (c : Config) (b : Idx) : bufOf (State.resetWith c) b = Buffer.reset := by
  simp [bufOf, State.resetWith]

@[simp] theorem blkOf_resetWith (c : Config) (k : Blk) : blkOf (State.resetWith c) k = Block.reset := by
  simp [blkOf, State.resetWith]

@[simp] theorem entryOf_resetWith (c : Config) (k : Blk) (p : Idx) :
    entryOf (State.resetWith c) k p = ⟨false, 0, 0⟩ := by
  simp [entryOf, Block.reset]

@[simp] theorem unitStateOf_resetWith (c : Config) (x : UnitId) : unitStateOf (State.resetWith c) x = .free := by
  simp [unitStateOf_eq, Block.reset]

@[simp] theorem slotOf_resetWith (c : Config) (p : Port) : slotOf (State.resetWith c) p = none := by
  unfold slotOf
  split <;> simp [State.resetWith]

@[simp] theorem stageOf_resetInput (ch : Chan) (i : Idx) : stageOf (resetInput s) ch i = Stage.reset :=
  stageOf_resetWith s.cfg ch i

@[simp] theorem bufOf_resetInput (b : Idx) : bufOf (resetInput s) b = Buffer.reset := bufOf_resetWith s.cfg b

@[simp] theorem unitStateOf_resetInput (x : UnitId) : unitStateOf (resetInput s) x = .free :=
  unitStateOf_resetWith s.cfg x

/-! ## The configuration (10_state.md R47) -/

theorem exec_keeps_cfg {s t : State} (h : ExecEffect s t) : t.cfg = s.cfg := by
  cases h with
  | deadlock => exact onlyChanges_raiseFatal s .deadlock s.issuer .config (by simp)
  | initFailure => exact onlyChanges_raiseFatal s .transferInitFailure s.issuer .config (by simp)
  | _ => rfl

theorem event_keeps_cfg {s t : State} {e : Event} (h : EventEffect s e t) : t.cfg = s.cfg := by
  cases h with
  | serve p c hc hw t h => simpa using exec_keeps_cfg h
  | scan => exact onlyChanges_arbScan s .config (by simp)
  | load => exact onlyChanges_arbLoad s .config (by simp)
  | record => exact onlyChanges_arbRecord s .config (by simp)
  | _ => rfl

/-- No step writes the configuration. -/
theorem step_keeps_cfg {s t : State} (h : step s = .next t) : t.cfg = s.cfg :=
  (event_keeps_cfg (step_effect h)).trans (nextEvent_onlyChanges s .config (by simp))

end Sys2Proof.Machine
end

section
/-! PROOFS. The ring buffers under every step: what an event can do to one buffer, the single-writer rule,
and the invariants of rings and engines. -/

namespace Sys2Proof.Machine

/-! ## The queue primitives and the ring invariant (43_ringbuffer.md R171 to R173) -/

/-- One word is enqueued, from `b` to `x`: with room, written at head mod N, head advanced. -/
def Enqueues (c : BufConfig) (b x : Buffer) : Prop :=
  freeWords c b ≠ 0 ∧ headIndex c b < c.n ∧ (∃ w, x.mem = Memory.write b.mem (headIndex c b) w) ∧
    x.head = advance c b.head ∧ x.tail = b.tail

/-- One word is dequeued, from `b` to `x`: tail advanced, the array as before. -/
def Dequeues (c : BufConfig) (b x : Buffer) : Prop :=
  fill c b ≠ 0 ∧ x.mem = b.mem ∧ x.head = b.head ∧ x.tail = advance c b.tail

theorem enqueues_of_enqueue {c : BufConfig} {b x : Buffer} {w : Word} (h : enqueue c b w = .ok x) :
    Enqueues c b x := by
  obtain ⟨hfree, hindex, rfl⟩ := enqueue_cases c b x w h
  exact ⟨hfree, hindex, ⟨w, rfl⟩, rfl, rfl⟩

theorem dequeues_of_dequeue {c : BufConfig} {b x : Buffer} {w : Word} (h : dequeue c b = .ok (w, x)) :
    Dequeues c b x := by
  obtain ⟨hfill, -, rfl⟩ := dequeue_cases c b x w h
  exact ⟨hfill, rfl, rfl, rfl⟩

section
variable {c : BufConfig} {b x : Buffer}

theorem SameRing.fill_eq (h : SameRing b x) : fill c x = fill c b := by
  obtain ⟨-, hhead, htail⟩ := h
  simp [fill, hhead, htail]

theorem SameRing.ringInv (h : SameRing b x) (hr : RingInv c b) : RingInv c x := by
  obtain ⟨hmem, hhead, htail⟩ := id h
  simpa only [RingInv, h.fill_eq, hmem, hhead, htail] using hr

theorem Enqueues.fill_eq (h : Enqueues c b x) (hr : RingInv c b) : fill c x = fill c b + 1 := by
  obtain ⟨hfree, -, -, hhead, htail⟩ := h
  obtain ⟨hh, ht, -⟩ := hr
  have hadv := advance_eq c b.head hh
  have hx := Machine.fill_eq c x (by rw [hhead]; exact advance_lt c _ (by omega)) (by rw [htail]; exact ht)
  have hb := Machine.fill_eq c b hh ht
  simp only [freeWords] at hfree
  rw [hhead, htail, hadv] at hx
  split at hx <;> split at hx <;> split at hb <;> omega

theorem Dequeues.fill_eq (h : Dequeues c b x) (hr : RingInv c b) : fill c x + 1 = fill c b := by
  obtain ⟨hfill, -, hhead, htail⟩ := h
  obtain ⟨hh, ht, -⟩ := hr
  have hadv := advance_eq c b.tail ht
  have hx := Machine.fill_eq c x (by rw [hhead]; exact hh) (by rw [htail]; exact advance_lt c _ (by omega))
  have hb := Machine.fill_eq c b hh ht
  rw [hhead, htail, hadv] at hx
  split at hx <;> split at hx <;> split at hb <;> omega

/-- The new word stands where the held ones end, so every held word is still written. -/
theorem Enqueues.ringInv (h : Enqueues c b x) (hr : RingInv c b) : RingInv c x := by
  have hfill := h.fill_eq hr
  obtain ⟨hfree, hindex, ⟨w, hmem⟩, hhead, htail⟩ := h
  obtain ⟨hh, ht, hle, hwf, hbound, hwritten⟩ := hr
  refine ⟨by rw [hhead]; exact advance_lt c _ (by omega), by rw [htail]; exact ht, ?_, ?_, ?_, ?_⟩
  · simp only [freeWords] at hfree
    omega
  · rw [hmem]; exact Memory.wf_write _ _ _ hwf
  · intro e he
    rw [hmem] at he
    rcases Memory.mem_write _ _ _ e he with rfl | he
    · exact hindex
    · exact hbound e he
  · intro k hk
    rw [hmem, htail]
    by_cases hlast : (b.tail + k) % c.n = headIndex c b
    · simp [hlast]
    · rw [Memory.read_write_other _ _ _ _ hlast]
      refine hwritten k ?_
      have hne : k ≠ fill c b := fun e => hlast (by rw [e, headIndex_eq c b hh ht])
      omega

theorem Dequeues.ringInv (h : Dequeues c b x) (hr : RingInv c b) : RingInv c x := by
  have hfill := h.fill_eq hr
  obtain ⟨hpos, hmem, hhead, htail⟩ := h
  obtain ⟨hh, ht, hle, hwf, hbound, hwritten⟩ := hr
  refine ⟨by rw [hhead]; exact hh, by rw [htail]; exact advance_lt c _ (by omega), by omega, by rw [hmem]; exact hwf,
    by rw [hmem]; exact hbound, ?_⟩
  intro k hk
  have hshift : (x.tail + k) % c.n = (b.tail + (k + 1)) % c.n := by
    rw [htail, advance, Nat.add_mod, Nat.mod_mul_left_mod, ← Nat.add_mod, Nat.add_assoc, Nat.add_comm 1 k]
  rw [hmem, hshift]
  exact hwritten (k + 1) (by omega)

end

/-! ## The engines (43_ringbuffer.md R186 to R188) -/

/-- What a step of either engine does to the parts that do not depend on the direction: the binding stays,
phase and unit count advance. -/
structure EngineAdvances (c : BufConfig) (b x : Buffer) : Prop where
  binding : SameBinding b x
  phase : x.phase = (b.phase + 1) % 2
  ucount : x.ucount = if b.ucount + 1 = c.xferUnit then 0 else b.ucount + 1

/-- What a step of an IN engine does: the frame is accepted where its first word finds room for both, and
an accepted word is enqueued. -/
structure EngineInStep (c : BufConfig) (b x : Buffer) : Prop extends EngineAdvances c b x where
  winPos : x.winPos = b.winPos + 1
  wireOut : x.wireOut = b.wireOut
  underrun : x.underrun = b.underrun
  decides : b.phase = 0 → (x.latch = true ↔ 2 ≤ freeWords c b)
  remembers : b.phase ≠ 0 → x.latch = b.latch
  ring : if x.latch = true then Enqueues c b x else SameRing b x

/-- What a step of an OUT engine does: the frame is taken where its first word finds both held, and a
taken word is dequeued. -/
structure EngineOutStep (c : BufConfig) (b x : Buffer) : Prop extends EngineAdvances c b x where
  wireOut : x.wireOut.length = b.wireOut.length + 1
  winPos : x.winPos = b.winPos
  overrun : x.overrun = b.overrun
  decides : b.phase = 0 → (x.latch = true ↔ 2 ≤ fill c b)
  remembers : b.phase ≠ 0 → x.latch = b.latch
  ring : if x.latch = true then Dequeues c b x else SameRing b x

/-- `CountUnit` writes the unit counter, the completed units and the interrupt flag. -/
theorem countUnit_eq (c : BufConfig) (b : Buffer) :
    ∃ units pend, countUnit c b =
      { b with ucount := if b.ucount + 1 = c.xferUnit then 0 else b.ucount + 1, units := units, irqPend := pend } := by
  unfold countUnit
  split
  · exact ⟨_, _, rfl⟩
  · exact ⟨b.units, b.irqPend, rfl⟩

/-- The decision of an IN engine writes the latch, the overrun flag and the drop counter. -/
theorem decideIn_eq (c : BufConfig) (b : Buffer) :
    ∃ latch overrun drops, decideIn c b = { b with latch := latch, overrun := overrun, drops := drops } ∧
      (b.phase = 0 → (latch = true ↔ 2 ≤ freeWords c b)) ∧ (b.phase ≠ 0 → latch = b.latch) := by
  unfold decideIn
  split
  · next hp =>
    split
    · next hroom => exact ⟨true, b.overrun, b.drops, rfl, fun _ => iff_of_true rfl hroom, fun h => absurd hp h⟩
    · next hroom => exact ⟨false, true, _, rfl, fun _ => iff_of_false (by simp) hroom, fun h => absurd hp h⟩
  · next hp => exact ⟨b.latch, b.overrun, b.drops, rfl, fun h => absurd h hp, fun _ => rfl⟩

/-- The decision of an OUT engine writes the latch, the underrun flag and the drop counter. -/
theorem decideOut_eq (c : BufConfig) (b : Buffer) :
    ∃ latch underrun drops, decideOut c b = { b with latch := latch, underrun := underrun, drops := drops } ∧
      (b.phase = 0 → (latch = true ↔ 2 ≤ fill c b)) ∧ (b.phase ≠ 0 → latch = b.latch) := by
  unfold decideOut
  split
  · next hp =>
    split
    · next hheld => exact ⟨true, b.underrun, b.drops, rfl, fun _ => iff_of_true rfl hheld, fun h => absurd hp h⟩
    · next hheld => exact ⟨false, true, _, rfl, fun _ => iff_of_false (by simp) hheld, fun h => absurd hp h⟩
  · next hp => exact ⟨b.latch, b.underrun, b.drops, rfl, fun h => absurd h hp, fun _ => rfl⟩

theorem engineIn_step {c : BufConfig} {b x : Buffer} {w : Word} (h : engineIn c b w = .ok x) :
    EngineInStep c b x := by
  obtain ⟨latch, overrun, drops, hdec, hdecides, hremembers⟩ := decideIn_eq c { b with winPos := b.winPos + 1 }
  simp only [engineIn, hdec] at h
  split at h
  · cases h
  · next b2 hb2 =>
    obtain ⟨units, pend, hcount⟩ := countUnit_eq c { b2 with phase := nextPhase b2 }
    rw [hcount] at h
    cases h
    cases latch with
    | true =>
      obtain ⟨hfree, hindex, rfl⟩ := enqueue_cases _ _ _ _ hb2
      exact ⟨⟨⟨rfl, rfl, rfl, rfl, rfl⟩, rfl, rfl⟩, rfl, rfl, rfl, hdecides, hremembers,
        hfree, hindex, ⟨w, rfl⟩, rfl, rfl⟩
    | false =>
      cases hb2
      exact ⟨⟨⟨rfl, rfl, rfl, rfl, rfl⟩, rfl, rfl⟩, rfl, rfl, rfl, hdecides, hremembers, rfl, rfl, rfl⟩

theorem engineOut_step {c : BufConfig} {b x : Buffer} (h : engineOut c b = .ok x) : EngineOutStep c b x := by
  obtain ⟨latch, underrun, drops, hdec, hdecides, hremembers⟩ := decideOut_eq c b
  simp only [engineOut, hdec] at h
  split at h
  · cases h
  · next w b2 hb2 =>
    obtain ⟨units, pend, hcount⟩ := countUnit_eq c { b2 with wireOut := b2.wireOut ++ [w], phase := nextPhase b2 }
    rw [hcount] at h
    cases h
    cases latch with
    | true =>
      obtain ⟨hfill, -, rfl⟩ := dequeue_cases _ _ _ _ hb2
      exact ⟨⟨⟨rfl, rfl, rfl, rfl, rfl⟩, rfl, rfl⟩, by simp, rfl, rfl, hdecides, hremembers,
        hfill, rfl, rfl, rfl⟩
    | false =>
      cases hb2
      exact ⟨⟨⟨rfl, rfl, rfl, rfl, rfl⟩, rfl, rfl⟩, by simp, rfl, rfl, hdecides, hremembers, rfl, rfl, rfl⟩

/-! ## The engine invariant (10_state.md R35) -/

section
variable {c : BufConfig} {b x : Buffer}

theorem advance_mod_two (c : BufConfig) (i : Nat) : advance c i % 2 = (i + 1) % 2 :=
  Nat.mod_mul_right_mod (i + 1) 2 c.n

/-- A transfer unit is a whole number of frames, so it ends where a frame ends. -/
theorem EngineAdvances.counters (h : EngineAdvances c b x) (heven : c.xferUnit % 2 = 0) (hi : EngineInv c b) :
    x.phase < 2 ∧ x.ucount < c.xferUnit ∧ x.ucount % 2 = x.phase := by
  obtain ⟨hphase, hcount, hparity, -⟩ := hi
  rw [h.phase, h.ucount]
  split <;> omega

/-- Between the two words of an accepted frame the engine's index is odd and there is still room (or a word)
for the second one; at every other time the index is even. -/
def FrameAligned (phase : Nat) (latch : Bool) (index room : Nat) : Prop :=
  index % 2 = (if phase = 1 ∧ latch = true then 1 else 0) ∧ (phase = 1 → latch = true → 1 ≤ room)

/-- A frame decided at its first word stays decided for its second, whichever side the engine is on. -/
theorem FrameAligned.advance {p p' i i' r r' : Nat} {l l' : Bool} (h : FrameAligned p l i r) (hp : p < 2)
    (hnext : p' = (p + 1) % 2) (hdecides : p = 0 → (l' = true ↔ 2 ≤ r)) (hremembers : p ≠ 0 → l' = l)
    (hmove : if l' = true then i' % 2 = (i + 1) % 2 ∧ r' + 1 = r else i' = i) : FrameAligned p' l' i' r' := by
  obtain ⟨hparity, -⟩ := h
  by_cases hfirst : p = 0
  · subst hfirst
    cases l' with
    | true =>
      obtain ⟨hindex, hroom⟩ := hmove
      have hroom2 : 2 ≤ r := (hdecides rfl).mp rfl
      simp only [zero_ne_one, false_and, if_false] at hparity
      exact ⟨by rw [hnext, hindex]; simp; omega, fun _ _ => by omega⟩
    | false =>
      have hindex : i' = i := by simpa using hmove
      exact ⟨by simpa [hindex] using hparity, by simp⟩
  · have hsecond : p = 1 := by omega
    have hphase : p' = 0 := by omega
    rw [← hremembers hfirst] at hparity
    cases l' with
    | true =>
      obtain ⟨hindex, -⟩ := hmove
      simp only [hsecond, and_self, if_true] at hparity
      exact ⟨by rw [hindex]; simp [hphase]; omega, by simp [hphase]⟩
    | false =>
      have hindex : i' = i := by simpa using hmove
      exact ⟨by simpa [hindex] using hparity, by simp⟩

theorem EngineInStep.engineInv (h : EngineInStep c b x) (hd : c.dir = .input) (heven : c.xferUnit % 2 = 0)
    (hr : RingInv c b) (hi : EngineInv c b) : EngineInv c x := by
  obtain ⟨hphase', hcount', hparity'⟩ := h.counters heven hi
  obtain ⟨hphase, -, -, hin, -⟩ := hi
  obtain ⟨hhead, hwin, hroom, hunder, hout⟩ := hin hd
  have hmove : if x.latch = true then x.head % 2 = (b.head + 1) % 2 ∧ freeWords c x + 1 = freeWords c b
      else x.head = b.head := by
    have hring := h.ring
    split at hring
    · next hlatch =>
      rw [if_pos hlatch]
      have hfill := hring.fill_eq hr
      obtain ⟨hfree, -, -, hhead', -⟩ := hring
      simp only [freeWords] at hfree ⊢
      exact ⟨by rw [hhead', advance_mod_two], by omega⟩
    · next hlatch =>
      rw [if_neg hlatch]
      obtain ⟨-, hhead', -⟩ := hring
      exact hhead'
  obtain ⟨hparity, hroom'⟩ :=
    FrameAligned.advance ⟨hhead, hroom⟩ hphase h.phase h.decides h.remembers hmove
  have hwin' : x.winPos % 2 = x.phase := by rw [h.winPos, h.phase]; omega
  exact ⟨hphase', hcount', hparity',
    fun _ => ⟨hparity, hwin', hroom', h.underrun.trans hunder, h.wireOut.trans hout⟩,
    fun ho => by simp [hd] at ho⟩

theorem EngineOutStep.engineInv (h : EngineOutStep c b x) (hd : c.dir = .output) (heven : c.xferUnit % 2 = 0)
    (hr : RingInv c b) (hi : EngineInv c b) : EngineInv c x := by
  obtain ⟨hphase', hcount', hparity'⟩ := h.counters heven hi
  obtain ⟨hphase, -, -, -, hout⟩ := hi
  obtain ⟨htail, hlen, hheld, hover, hwin⟩ := hout hd
  have hmove : if x.latch = true then x.tail % 2 = (b.tail + 1) % 2 ∧ fill c x + 1 = fill c b
      else x.tail = b.tail := by
    have hring := h.ring
    split at hring
    · next hlatch =>
      rw [if_pos hlatch]
      have hfill := hring.fill_eq hr
      obtain ⟨-, -, -, htail'⟩ := hring
      exact ⟨by rw [htail', advance_mod_two], hfill⟩
    · next hlatch =>
      rw [if_neg hlatch]
      obtain ⟨-, -, htail'⟩ := hring
      exact htail'
  obtain ⟨hparity, hheld'⟩ :=
    FrameAligned.advance ⟨htail, hheld⟩ hphase h.phase h.decides h.remembers hmove
  have hlen' : x.wireOut.length % 2 = x.phase := by rw [h.wireOut, h.phase]; omega
  exact ⟨hphase', hcount', hparity', fun ho => by simp [hd] at ho,
    fun _ => ⟨hparity, hlen', hheld', h.overrun.trans hover, h.winPos.trans hwin⟩⟩

theorem EngineInStep.ringInv (h : EngineInStep c b x) (hr : RingInv c b) : RingInv c x := by
  have hring := h.ring
  split at hring
  · exact hring.ringInv hr
  · exact hring.ringInv hr

theorem EngineOutStep.ringInv (h : EngineOutStep c b x) (hr : RingInv c b) : RingInv c x := by
  have hring := h.ring
  split at hring
  · exact hring.ringInv hr
  · exact hring.ringInv hr

end

/-- A word from the foreground never takes a word of an accepted frame away (43_ringbuffer.md R187). -/
theorem engineInv_of_enqueue {c : BufConfig} {b x : Buffer} {w : Word} (hd : c.dir = .output) (hr : RingInv c b)
    (hi : EngineInv c b) (h : enqueue c b w = .ok x) : EngineInv c x := by
  have hfill := (enqueues_of_enqueue h).fill_eq hr
  obtain ⟨hphase, hcount, hparity, -, hout⟩ := hi
  obtain ⟨htail, hlen, hheld, hover, hwin⟩ := hout hd
  obtain ⟨-, -, rfl⟩ := enqueue_cases _ _ _ _ h
  refine ⟨hphase, hcount, hparity, fun ho => by simp [hd] at ho, fun _ => ⟨htail, hlen, ?_, hover, hwin⟩⟩
  intro hp hl
  have := hheld hp hl
  omega

/-- A word taken by the foreground never takes the room of an accepted frame away (43_ringbuffer.md R186). -/
theorem engineInv_of_dequeue {c : BufConfig} {b x : Buffer} {w : Word} (hd : c.dir = .input) (hr : RingInv c b)
    (hi : EngineInv c b) (h : dequeue c b = .ok (w, x)) : EngineInv c x := by
  have hfill := (dequeues_of_dequeue h).fill_eq hr
  obtain ⟨hphase, hcount, hparity, hin, -⟩ := hi
  obtain ⟨hhead, hpos, hroom, hunder, hout⟩ := hin hd
  obtain ⟨-, -, rfl⟩ := dequeue_cases _ _ _ _ h
  refine ⟨hphase, hcount, hparity, fun _ => ⟨hhead, hpos, ?_, hunder, hout⟩, fun ho => by simp [hd] at ho⟩
  intro hp hl
  have := hroom hp hl
  simp only [freeWords] at this ⊢
  omega

/-! ## Reset -/

theorem fill_reset (c : BufConfig) : fill c Buffer.reset = 0 := by simp [fill, Buffer.reset]

theorem ringInv_reset {c : BufConfig} (hc : c.Valid) : RingInv c Buffer.reset := by
  obtain ⟨-, hn, -⟩ := hc
  refine ⟨?_, ?_, by simp [fill_reset], rfl, by simp [Buffer.reset], by simp [fill_reset]⟩ <;>
    simp only [Buffer.reset] <;> omega

theorem engineInv_reset {c : BufConfig} (hc : c.Valid) : EngineInv c Buffer.reset := by
  obtain ⟨-, -, -, -, hunit, -⟩ := hc
  simp [EngineInv, Buffer.reset]
  omega

/-! ## What an event can do to one buffer -/

/-- The states that buffer `b` can have after one event in state `s`. -/
inductive BufferEffect (s : State) (b : Idx) : Event → Buffer → Prop where
  | reset : BufferEffect s b .reset Buffer.reset
  /-- The event does not reach the buffer. -/
  | same (e : Event) (he : e ≠ .reset) : BufferEffect s b e (bufOf s b)
  /-- RB.WR, RB.WRB. -/
  | write (p : Port) (hd : (bufCfg s b).dir = .output) (w : Word) (x : Buffer)
      (hx : enqueue (bufCfg s b) (bufOf s b) w = .ok x) : BufferEffect s b (.serve p) x
  /-- RB.RD, RB.RDB. -/
  | take (p : Port) (hd : (bufCfg s b).dir = .input) (w : Word) (x : Buffer)
      (hx : dequeue (bufCfg s b) (bufOf s b) = .ok (w, x)) : BufferEffect s b (.serve p) x
  /-- RB.BEGIN. -/
  | bind (p : Port) (hb : b.val < s.cfg.nBuf) (u : UnitId) (hu : u.u.val < s.cfg.u) (a : Word) (cb : Bool)
      (hf : beginFails s b u a = false) : BufferEffect s b (.serve p) (bindBuffer (bufOf s b) u a cb p.core)
  /-- RB.ACK. -/
  | ack (p : Port) : BufferEffect s b (.serve p) { bufOf s b with irqPend := false }
  | engineIn (hd : (bufCfg s b).dir = .input) (x : Buffer) (hx : EngineInStep (bufCfg s b) (bufOf s b) x) :
      BufferEffect s b (.xfer b) x
  | engineOut (hd : (bufCfg s b).dir = .output) (x : Buffer) (hx : EngineOutStep (bufCfg s b) (bufOf s b) x) :
      BufferEffect s b (.xfer b) x

/-- An event that writes buffer `i` leaves every other buffer. -/
theorem BufferEffect.of_setBuf {s : State} {e : Event} {i : Idx} {x : Buffer} (he : e ≠ .reset)
    (h : BufferEffect s i e x) (b : Idx) : BufferEffect s b e (bufOf (setBuf s i x) b) := by
  rw [bufOf_setBuf]
  split
  · next hib => subst hib; exact h
  · exact .same e he

/-- Taking the next event touches nothing that the effect on a buffer depends on. -/
theorem BufferEffect.of_setSchedule {s : State} {agenda : List Event} {envPos : Nat} {b : Idx} {e : Event}
    {x : Buffer} (h : BufferEffect (setSchedule agenda envPos s) b e x) : BufferEffect s b e x := by
  cases h with
  | reset => exact .reset
  | same _ he => exact .same e he
  | write p hd w _ hx => exact .write (s := s) p hd w x hx
  | take p hd w _ hx => exact .take (s := s) p hd w x hx
  | bind p hb u hu a cb hf => exact .bind (s := s) p hb u hu a cb hf
  | ack p => exact .ack p
  | engineIn hd _ hx => exact .engineIn (s := s) hd x hx
  | engineOut hd _ hx => exact .engineOut (s := s) hd x hx

/-- From `s` to `t` at most one buffer has been written. -/
def WritesOneBuffer (s t : State) (e : Event) : Prop :=
  (∀ b, bufOf t b = bufOf s b) ∨ ∃ i x, BufferEffect s i e x ∧ ∀ b, bufOf t b = bufOf (setBuf s i x) b

theorem exec_writesOneBuffer {s t : State} {p : Port} (h : ExecEffect (setIssuer p s) t) :
    WritesOneBuffer s t (.serve p) := by
  cases h with
  | write hh i hi hd w x hx => exact .inr ⟨i, x, .write (s := s) p hd w x hx, fun _ => rfl⟩
  | take hh i hi hd w x hx => exact .inr ⟨i, x, .take (s := s) p hd w x hx, fun _ => rfl⟩
  | bind hh i hi u hu a cb hf => exact .inr ⟨i, _, .bind (s := s) p hi u hu a cb hf, fun _ => rfl⟩
  | ack hh i hi => exact .inr ⟨i, _, .ack (s := s) p, fun _ => rfl⟩
  | deadlock => exact .inl fun b => onlyChanges_raiseFatal _ _ _ (.buffer b) (by simp)
  | initFailure => exact .inl fun b => onlyChanges_raiseFatal _ _ _ (.buffer b) (by simp)
  | _ => exact .inl fun _ => rfl

theorem event_writesOneBuffer {s t : State} {e : Event} (h : EventEffect s e t) (he : e ≠ .reset) :
    WritesOneBuffer s t e := by
  cases h with
  | reset => exact absurd rfl he
  | serve p c hc hw t h => exact exec_writesOneBuffer h
  | scan => exact .inl fun b => onlyChanges_arbScan s (.buffer b) (by simp)
  | load => exact .inl fun b => onlyChanges_arbLoad s (.buffer b) (by simp)
  | record => exact .inl fun b => onlyChanges_arbRecord s (.buffer b) (by simp)
  | engineIn i he hd x hx => exact .inr ⟨i, x, .engineIn hd x (engineIn_step hx), fun _ => rfl⟩
  | engineOut i he hd x hx => exact .inr ⟨i, x, .engineOut hd x (engineOut_step hx), fun _ => rfl⟩
  | _ => exact .inl fun _ => rfl

/-- Outside reset a step writes at most one buffer. -/
theorem step_writesOneBuffer {s t : State} (h : step s = .next t) (he : (nextEvent s).1 ≠ .reset) :
    WritesOneBuffer s t (nextEvent s).1 := by
  have hwrites := event_writesOneBuffer (step_effect h) he
  obtain ⟨agenda, envPos, hnext⟩ := nextEvent_eq_setSchedule s
  rw [hnext] at hwrites
  rcases hwrites with hsame | ⟨i, x, heffect, hwrite⟩
  · exact .inl hsame
  · exact .inr ⟨i, x, heffect.of_setSchedule, hwrite⟩

/-- A step on the reset event is the reset input. -/
theorem step_of_reset {s t : State} (h : step s = .next t) (he : (nextEvent s).1 = .reset) :
    t = resetInput (nextEvent s).2 := by
  simp only [step, he, runEvent, Host.Outcome.next.injEq] at h
  exact h.symm

/-- Everything a step can do to one buffer. -/
theorem step_bufferEffect {s t : State} (h : step s = .next t) (b : Idx) :
    BufferEffect s b (nextEvent s).1 (bufOf t b) := by
  by_cases he : (nextEvent s).1 = .reset
  · rw [step_of_reset h he, he, bufOf_resetInput]
    exact .reset
  · rcases step_writesOneBuffer h he with hsame | ⟨i, x, heffect, hwrite⟩
    · rw [hsame b]
      exact .same _ he
    · rw [hwrite b]
      exact heffect.of_setBuf he b

theorem BufferEffect.ringInv {s : State} {b : Idx} {e : Event} {x : Buffer} (h : BufferEffect s b e x)
    (hc : (bufCfg s b).Valid) (hr : RingInv (bufCfg s b) (bufOf s b)) : RingInv (bufCfg s b) x := by
  cases h with
  | reset => exact ringInv_reset hc
  | write p hd w x hx => exact (enqueues_of_enqueue hx).ringInv hr
  | take p hd w x hx => exact (dequeues_of_dequeue hx).ringInv hr
  | engineIn hd x hx => exact hx.ringInv hr
  | engineOut hd x hx => exact hx.ringInv hr
  | same => exact hr
  | bind => exact hr
  | ack => exact hr

theorem BufferEffect.engineInv {s : State} {b : Idx} {e : Event} {x : Buffer} (h : BufferEffect s b e x)
    (hc : (bufCfg s b).Valid) (hr : RingInv (bufCfg s b) (bufOf s b)) (hi : EngineInv (bufCfg s b) (bufOf s b)) :
    EngineInv (bufCfg s b) x := by
  have heven : (bufCfg s b).xferUnit % 2 = 0 := by obtain ⟨-, -, -, heven, -⟩ := hc; exact heven
  cases h with
  | reset => exact engineInv_reset hc
  | write p hd w x hx => exact engineInv_of_enqueue hd hr hi hx
  | take p hd w x hx => exact engineInv_of_dequeue hd hr hi hx
  | engineIn hd x hx => exact hx.engineInv hd heven hr hi
  | engineOut hd x hx => exact hx.engineInv hd heven hr hi
  | same => exact hi
  | bind => exact hi
  | ack => exact hi

theorem bufCfg_valid {s : State} (hv : s.cfg.Valid) {b : Idx} (hb : b.val < s.cfg.nBuf) : (bufCfg s b).Valid := by
  obtain ⟨-, -, -, -, -, -, hbuf, -⟩ := hv
  exact hbuf b hb

/-- Settles O34: a step keeps the configuration, and each of its effects on a buffer keeps both invariants. -/
theorem buffersInvIsKept : Obligations.BuffersInvIsKept := by
  rintro s t ⟨hv, hinv⟩ hstep
  have hcfg := step_keeps_cfg hstep
  refine ⟨by rw [hcfg]; exact hv, fun b hb => ?_⟩
  have hbc : bufCfg t b = bufCfg s b := by simp only [bufCfg, hcfg]
  rw [hcfg] at hb
  obtain ⟨hr, hi⟩ := hinv b hb
  have heffect := step_bufferEffect hstep b
  rw [hbc]
  exact ⟨heffect.ringInv (bufCfg_valid hv hb) hr, heffect.engineInv (bufCfg_valid hv hb) hr hi⟩

/-- Settles O37: among the effects on a buffer, the foreground and the engine each write the index that is
theirs in the buffer's direction. -/
theorem eachSideOwnsItsIndex : Obligations.EachSideOwnsItsIndex := by
  intro s t b hstep hne
  have heffect := step_bufferEffect hstep b
  generalize (nextEvent s).1 = e at heffect hne ⊢
  generalize bufOf t b = x at heffect ⊢
  cases heffect with
  | reset => exact absurd rfl hne
  | same => simp
  | bind p => simp [bindBuffer]
  | ack p => simp
  | write p hd w x hx =>
    obtain ⟨-, -, -, -, htail⟩ := enqueues_of_enqueue hx
    simp [hd, htail]
  | take p hd w x hx =>
    obtain ⟨-, hmem, hhead, -⟩ := dequeues_of_dequeue hx
    simp [hd, hmem, hhead]
  | engineIn hd x hx =>
    have htail : x.tail = (bufOf s b).tail := by
      have hring := hx.ring
      split at hring
      · obtain ⟨-, -, -, -, htail⟩ := hring; exact htail
      · obtain ⟨-, -, htail⟩ := hring; exact htail
    simp [hd, htail]
  | engineOut hd x hx =>
    obtain ⟨hmem, hhead⟩ : x.mem = (bufOf s b).mem ∧ x.head = (bufOf s b).head := by
      have hring := hx.ring
      split at hring
      · obtain ⟨-, hmem, hhead, -⟩ := hring; exact ⟨hmem, hhead⟩
      · obtain ⟨hmem, hhead, -⟩ := hring; exact ⟨hmem, hhead⟩
    simp [hd, hmem, hhead]

end Sys2Proof.Machine
end

section
/-! PROOFS. Presenting a command, the reset values, the invariants in the reset state (10_state.md R45, R46). -/

namespace Sys2Proof.Machine

/-- Settles O57: an empty slot takes the command, an occupied one leaves the state. -/
theorem presentingFillsAnEmptySlot : Obligations.PresentingFillsAnEmptySlot := by
  intro s p c
  constructor
  · intro hempty
    refine ⟨setSlot s p (some c), ?_, by simp [slotOf_setSlot], onlyChanges_setSlot s p (some c)⟩
    simp [runEvent, presentCommand, hempty]
  · intro hfull
    obtain ⟨held, hheld⟩ := Option.ne_none_iff_exists'.mp hfull
    simp [runEvent, presentCommand, hheld]

/-- Settles O58: every part of the state reads as in the reset state of its configuration. -/
theorem resetGivesTheResetValues : Obligations.ResetGivesTheResetValues := by
  intro s
  refine ⟨resetInput s, rfl, rfl, fun ch i => ?_, fun b => ?_, fun k p => ?_, fun k => ?_, rfl, rfl, fun x => ?_,
    rfl, rfl, rfl, rfl, rfl, rfl, rfl, rfl, rfl, fun p => ?_⟩
  · simp [Stage.reset]
  · simp [Buffer.reset]
  · exact entryOf_resetWith s.cfg k p
  · have hblk : blkOf (resetInput s) k = Block.reset := blkOf_resetWith s.cfg k
    simp [hblk, Block.reset]
  · exact unitStateOf_resetInput s x
  · exact slotOf_resetWith s.cfg p

section
variable (c : Config)

theorem remaindersInRange_resetWith : RemaindersInRange (State.resetWith c) := by
  intro ch i
  simp [Stage.reset]

theorem buffersInv_resetWith (hc : c.Valid) : BuffersInv (State.resetWith c) := by
  refine ⟨hc, fun b hb => ?_⟩
  rw [bufOf_resetWith]
  have hb : (bufCfg (State.resetWith c) b).Valid := bufCfg_valid hc hb
  exact ⟨ringInv_reset hb, engineInv_reset hb⟩

/-- No word of an empty block is occupied and none is reserved (42_arbitrator.md R156). -/
theorem blockInv_resetWith (k : Blk) : BlockInv (State.resetWith c) k := by
  have hidle : (State.resetWith c).arbState = .idle := rfl
  have hpending : pendingLen (State.resetWith c) k = 0 := by simp [pendingLen, hidle]
  have hresident : residentLen (State.resetWith c) k = 0 := by simp [residentLen]
  simp [BlockInv, hpending, hresident, Block.reset]

theorem arbInv_resetWith (hc : c.Valid) : ArbInv (State.resetWith c) := by
  have hidle : (State.resetWith c).arbState = .idle := rfl
  have hlock : (State.resetWith c).lock.held = false := rfl
  refine ⟨hc, ?_, ?_, ?_, ?_, ?_, ?_, blockInv_resetWith c⟩ <;> simp [hidle, hlock]

theorem startInv_resetWith : StartInv (State.resetWith c) := by
  simp [StartInv, Buffer.reset]

theorem errorInv_resetWith : ErrorInv (State.resetWith c) :=
  ⟨fun _ => ⟨rfl, rfl⟩, fun h => absurd h (by simp [State.resetWith])⟩

theorem wireInOrder_resetWith (b : Idx) : WireInOrder (State.resetWith c) b := by
  intro _
  simp only [bufOf_resetWith, contents, fill_reset]
  simp [Buffer.reset]

end

/-- Settles O59: each invariant is read off the reset values. -/
theorem invariantsHoldAtReset : Obligations.InvariantsHoldAtReset := by
  intro c hc
  exact ⟨remaindersInRange_resetWith c, buffersInv_resetWith c hc, arbInv_resetWith c hc, startInv_resetWith c,
    errorInv_resetWith c, fun b _ => wireInOrder_resetWith c b⟩

end Sys2Proof.Machine
end

section
/-! PROOFS. What every step keeps of the error state, the remainders, the units and the bindings. -/

namespace Sys2Proof.Machine

/-! ## The error state (10_state.md R44) -/

theorem ErrorInv.of_unchanged {s t : State} (hi : ErrorInv s) (h : unchanged s t .error) : ErrorInv t := by
  obtain ⟨hhalt, hcode, hcore⟩ := h
  simpa only [ErrorInv, hhalt, hcode, hcore] using hi

/-- The codes of the three fatal errors (60_exceptions.md R230). -/
theorem fatalCode_cases (e : FatalError) :
    statusCode (fatalStatus e) = 0x81#8 ∨ statusCode (fatalStatus e) = 0x82#8 ∨
      statusCode (fatalStatus e) = 0x83#8 := by
  cases e <;> simp [fatalStatus, statusCode]

/-- Outside HALT the error is recorded with its code; in HALT the first one stands (60_exceptions.md R235). -/
theorem ErrorInv.raiseFatal {s : State} (hi : ErrorInv s) (e : FatalError) (p : Port) :
    ErrorInv (raiseFatal e p s) := by
  by_cases hh : s.halt = true
  · rw [raiseFatal_halted e p s hh]
    exact hi
  · obtain ⟨-, -, hhalt, hcode, -⟩ := raiseFatal_spec e p s (by simpa using hh)
    refine ⟨fun h => ?_, fun _ => ?_⟩
    · simp [hhalt] at h
    · rw [hcode]; exact fatalCode_cases e

theorem ErrorInv.failClaim {s : State} (hi : ErrorInv s) : ErrorInv (failClaim s) :=
  (hi.of_unchanged (onlyChanges_releaseLock s .error (by simp))).raiseFatal .resourceExhausted s.arbReq.port

theorem ErrorInv.exec {s t : State} (hi : ErrorInv s) (h : ExecEffect s t) : ErrorInv t := by
  cases h with
  | deadlock => exact hi.raiseFatal .deadlock s.issuer
  | initFailure => exact hi.raiseFatal .transferInitFailure s.issuer
  | _ => exact hi

theorem ErrorInv.arbScan {s : State} (hi : ErrorInv s) : ErrorInv (arbScan s) := by
  unfold Machine.arbScan
  split
  · exact hi.failClaim
  · exact hi

theorem ErrorInv.arbLoad {s : State} (hi : ErrorInv s) : ErrorInv (arbLoad s) := by
  simp only [Machine.arbLoad]
  split
  · exact hi
  · split
    · exact hi
    · exact hi.failClaim

theorem ErrorInv.event {s t : State} {e : Event} (hi : ErrorInv s) (h : EventEffect s e t) : ErrorInv t := by
  cases h with
  | reset => exact errorInv_resetWith s.cfg
  | serve p c hc hw t h => exact ErrorInv.exec (s := setIssuer p s) hi h
  | scan => exact hi.arbScan
  | load => exact hi.arbLoad
  | record => exact hi.of_unchanged (onlyChanges_arbRecord s .error (by simp))
  | _ => exact hi

/-- Settles O55: only a fatal error and the reset input write the error state. -/
theorem errorInvIsKept : Obligations.ErrorInvIsKept := fun s _ hi hstep =>
  (hi.of_unchanged (nextEvent_onlyChanges s .error (by simp))).event (step_effect hstep)

/-! ## The remainders (10_state.md R24) -/

theorem low_lt (z : Int) (k : Nat) : low z k < 2 ^ k := by
  have hlt : z % 2 ^ k < 2 ^ k := Int.emod_lt_of_pos z (by positivity)
  have hcast := low_cast z k
  zify
  omega

theorem stageStep_rem_lt (c : Config) (g : Stage) (x : Word) : (stageStep c g x).1.rem < 2 ^ c.q := low_lt _ _

/-- A stage of the chain has been stepped, and carries a new remainder, or is as before. -/
theorem chainRun_rem_lt (c : Config) (is : List Idx) :
    ∀ (f : Vector Stage 16) (v : Word), (∀ i : Idx, f[i].rem < 2 ^ c.q) →
      ∀ i : Idx, (chainRun c f is v).1[i].rem < 2 ^ c.q := by
  induction is with
  | nil => exact fun f v hf => hf
  | cons j rest ih =>
    intro f v hf
    refine ih _ _ fun i => ?_
    by_cases hij : j = i
    · subst hij
      simpa using stageStep_rem_lt c _ v
    · have hv : j.val ≠ i.val := fun e => hij (Fin.ext e)
      simpa [hv] using hf i

theorem RemaindersInRange.setStage {s : State} (hi : RemaindersInRange s) {ch : Chan} {i : Idx} {g : Stage}
    (hg : g.rem < 2 ^ s.cfg.q) : RemaindersInRange (setStage s ch i g) := by
  intro ch' i'
  rw [stageOf_setStage]
  split
  · exact hg
  · exact hi ch' i'

theorem RemaindersInRange.setChannel {s : State} (hi : RemaindersInRange s) {ch : Chan} {f : Vector Stage 16}
    (hf : ∀ i : Idx, f[i].rem < 2 ^ s.cfg.q) : RemaindersInRange (setChannel s ch f) := by
  intro ch' i'
  rw [stageOf_setChannel]
  split
  · exact hf i'
  · exact hi ch' i'

theorem RemaindersInRange.of_unchanged {s t : State} (hi : RemaindersInRange s)
    (hcfg : unchanged s t .config) (hstage : ∀ ch i, unchanged s t (.stage ch i)) : RemaindersInRange t := by
  intro ch i
  have hg : stageOf t ch i = stageOf s ch i := hstage ch i
  have hc : t.cfg = s.cfg := hcfg
  rw [hg, hc]
  exact hi ch i

/-- A frame without stages and configuration keeps the remainders. -/
theorem RemaindersInRange.of_onlyChanges {s t : State} {parts : List Part} (hi : RemaindersInRange s)
    (h : OnlyChanges s t parts) (hcfg : Part.config ∉ parts) (hstage : ∀ ch i, Part.stage ch i ∉ parts) :
    RemaindersInRange t :=
  hi.of_unchanged (h _ hcfg) (fun ch i => h _ (hstage ch i))

theorem RemaindersInRange.exec {s t : State} (hi : RemaindersInRange s) (h : ExecEffect s t) :
    RemaindersInRange t := by
  cases h with
  | load hh ha ch i k v => exact hi.setStage (g := loadCoef (stageOf s ch i) k v) (hi ch i)
  | step hh ch i x hl => exact hi.setStage (stageStep_rem_lt s.cfg (stageOf s ch i) x)
  | chain hh ch x hl => exact hi.setChannel (chainRun_rem_lt s.cfg _ _ x (hi ch))
  | deadlock => exact hi.of_onlyChanges (onlyChanges_raiseFatal s .deadlock s.issuer) (by simp) (by simp)
  | initFailure =>
    exact hi.of_onlyChanges (onlyChanges_raiseFatal s .transferInitFailure s.issuer) (by simp) (by simp)
  | _ => exact hi

theorem RemaindersInRange.event {s t : State} {e : Event} (hi : RemaindersInRange s) (h : EventEffect s e t) :
    RemaindersInRange t := by
  cases h with
  | reset => exact remaindersInRange_resetWith s.cfg
  | serve p c hc hw t h => exact RemaindersInRange.exec (s := setIssuer p s) hi h
  | scan => exact hi.of_onlyChanges (onlyChanges_arbScan s) (by simp) (by simp)
  | load => exact hi.of_onlyChanges (onlyChanges_arbLoad s) (by simp) (by simp)
  | record => exact hi.of_onlyChanges (onlyChanges_arbRecord s) (by simp) (by simp)
  | _ => exact hi

/-- Settles O19: a remainder is written by BQ.STEP and BQ.CHAIN, masked to Q bits, and by reset. -/
theorem remaindersStayInRange : Obligations.RemaindersStayInRange := fun s _ hi hstep =>
  (hi.of_onlyChanges (nextEvent_onlyChanges s) (by simp) (by simp)).event (step_effect hstep)

/-! ## The units (10_state.md R41, 44_sync_and_loop.md R200) -/

/-- What one event can do to unit `x`, from `s` to `t`. -/
inductive UnitEffect (s t : State) (x : UnitId) : Event → Prop where
  | reset (h : unitStateOf t x = .free) : UnitEffect s t x .reset
  | same (e : Event) (he : e ≠ .reset) (h : unitStateOf t x = unitStateOf s x) : UnitEffect s t x e
  /-- SEQ.EN. -/
  | enable (p : Port) (hold : unitStateOf s x = .claimed) (hnew : unitStateOf t x = .waiting) :
      UnitEffect s t x (.serve p)
  /-- SYNC.ARM, which arms the gate. -/
  | arm (p : Port) (hold : unitStateOf s x = .waiting) (hnew : unitStateOf t x = .running) (ha : t.armed = true) :
      UnitEffect s t x (.serve p)
  /-- RECORD, of the unit that SCAN chose. -/
  | record (hs : s.arbState = .record) (hx : s.arbSel.unit = x) (hnew : unitStateOf t x = .claimed) :
      UnitEffect s t x .arb

theorem exec_unitEffect {s t : State} (h : ExecEffect s t) (p : Port) (x : UnitId) : UnitEffect s t x (.serve p) := by
  have hne : Event.serve p ≠ .reset := by simp
  cases h with
  | enable hh y hy hc =>
    have hunit := unitStateOf_setUnit s y x .waiting
    split at hunit
    · next hyx => subst hyx; exact .enable p hc hunit
    · exact .same _ hne hunit
  | arm hh =>
    have hunit := unitStateOf_startAll s x
    split at hunit
    · next hw => exact .arm p hw.2 hunit rfl
    · exact .same _ hne hunit
  | deadlock => exact .same _ hne (onlyChanges_raiseFatal s _ _ (.unit x) (by simp))
  | initFailure => exact .same _ hne (onlyChanges_raiseFatal s _ _ (.unit x) (by simp))
  | _ => exact .same _ hne rfl

theorem event_unitEffect {s t : State} {e : Event} (h : EventEffect s e t) (x : UnitId) : UnitEffect s t x e := by
  cases h with
  | reset => exact .reset (unitStateOf_resetInput s x)
  | serve p c hc hw t h =>
    cases exec_unitEffect h p x with
    | same _ he h => exact .same _ he h
    | enable _ hold hnew => exact .enable p hold hnew
    | arm _ hold hnew ha => exact .arm p hold hnew ha
  | scan => exact .same _ (by simp) (onlyChanges_arbScan s (.unit x) (by simp))
  | load => exact .same _ (by simp) (onlyChanges_arbLoad s (.unit x) (by simp))
  | record hh hs =>
    have hunit := unitStateOf_recordBlock s s.arbSel.unit x s.arbReq.p s.arbSel.offset s.arbReq.len
    split at hunit
    · next hx => exact .record hs hx hunit
    · exact .same _ (by simp) hunit
  | present p c h => exact .same _ (by simp) rfl
  | nothing e he => exact .same _ he rfl
  | engineIn => exact .same _ (by simp) rfl
  | engineOut => exact .same _ (by simp) rfl

/-- Everything a step can do to one unit. -/
theorem step_unitEffect {s t : State} (h : step s = .next t) (x : UnitId) : UnitEffect s t x (nextEvent s).1 := by
  have heffect := event_unitEffect (step_effect h) x
  obtain ⟨agenda, envPos, hnext⟩ := nextEvent_eq_setSchedule s
  rw [hnext] at heffect
  generalize (nextEvent s).1 = e at heffect ⊢
  cases heffect with
  | reset h => exact .reset h
  | same _ he h => exact .same _ he h
  | enable p hold hnew => exact .enable p hold hnew
  | arm p hold hnew ha => exact .arm p hold hnew ha
  | record hs hx hnew => exact .record hs hx hnew

/-- Settles O44: each effect on a unit is one place forward, RECORD because the latched unit is FREE. -/
theorem unitsOnlyMoveForward : Obligations.UnitsOnlyMoveForward := by
  intro s t x hinv hstep hne
  have heffect := step_unitEffect hstep x
  generalize (nextEvent s).1 = e at heffect hne
  cases heffect with
  | reset => exact absurd rfl hne
  | same _ _ h => exact .inl (by rw [h])
  | enable p hold hnew => exact .inr (by rw [hold, hnew]; rfl)
  | arm p hold hnew => exact .inr (by rw [hold, hnew]; rfl)
  | record hs hx hnew =>
    obtain ⟨-, -, -, -, -, hlatched, -⟩ := hinv
    obtain ⟨hold, -⟩ := hlatched (.inr hs)
    rw [hx] at hold
    exact .inr (by rw [hold, hnew]; rfl)

/-! ## The start gate and the bindings (10_state.md R43, 43_ringbuffer.md R182) -/

/-- Only the reset input disarms the gate. -/
theorem event_keeps_armed {s t : State} {e : Event} (h : EventEffect s e t) (he : e ≠ .reset)
    (ha : s.armed = true) : t.armed = true := by
  cases h with
  | reset => exact absurd rfl he
  | serve p c hc hw t h =>
    cases h with
    | deadlock => exact (onlyChanges_raiseFatal _ _ _ .armed (by simp)).trans ha
    | initFailure => exact (onlyChanges_raiseFatal _ _ _ .armed (by simp)).trans ha
    | arm => rfl
    | _ => exact ha
  | scan => exact (onlyChanges_arbScan s .armed (by simp)).trans ha
  | load => exact (onlyChanges_arbLoad s .armed (by simp)).trans ha
  | record => exact (onlyChanges_arbRecord s .armed (by simp)).trans ha
  | _ => exact ha

theorem step_keeps_armed {s t : State} (h : step s = .next t) (he : (nextEvent s).1 ≠ .reset)
    (ha : s.armed = true) : t.armed = true :=
  event_keeps_armed (step_effect h) he ((nextEvent_onlyChanges s .armed (by simp)).trans ha)

section
variable {s t : State} {x : UnitId} {e : Event}

/-- A unit that is not FREE stays so until reset. -/
theorem UnitEffect.not_free (h : UnitEffect s t x e) (he : e ≠ .reset) (hold : unitStateOf s x ≠ .free) :
    unitStateOf t x ≠ .free := by
  cases h with
  | reset => exact absurd rfl he
  | same _ _ h => rwa [h]
  | enable p _ hnew => simp [hnew]
  | arm p _ hnew => simp [hnew]
  | record _ _ hnew => simp [hnew]

/-- Nothing starts to run but by SYNC.ARM, which arms the gate. -/
theorem UnitEffect.not_running (h : UnitEffect s t x e) (he : e ≠ .reset) (ha : t.armed = false)
    (hold : unitStateOf s x ≠ .running) : unitStateOf t x ≠ .running := by
  cases h with
  | reset => exact absurd rfl he
  | same _ _ h => rwa [h]
  | enable p _ hnew => simp [hnew]
  | arm p _ _ hgate => simp [ha] at hgate
  | record _ _ hnew => simp [hnew]

end

/-- What one event outside reset can do to a binding: nothing, or RB.BEGIN binds an existing buffer where none
of its failures applies (43_ringbuffer.md R182, R183). -/
theorem BufferEffect.binding {s : State} {b : Idx} {e : Event} {x : Buffer} (h : BufferEffect s b e x)
    (he : e ≠ .reset) :
    SameBinding (bufOf s b) x ∨
      (b.val < s.cfg.nBuf ∧ x.trig.u.val < s.cfg.u ∧ ¬ CannotArm s b x.trig x.fifoAddr) := by
  have hsame : SameBinding (bufOf s b) (bufOf s b) := ⟨rfl, rfl, rfl, rfl, rfl⟩
  cases h with
  | reset => exact absurd rfl he
  | bind p hb u hu a cb hf =>
    refine .inr ⟨hb, hu, fun hcannot => ?_⟩
    simp [(beginFails_iff s b u a).mpr hcannot] at hf
  | write p hd w x hx =>
    obtain ⟨-, -, rfl⟩ := enqueue_cases _ _ _ _ hx
    exact .inl hsame
  | take p hd w x hx =>
    obtain ⟨-, -, rfl⟩ := dequeue_cases _ _ _ _ hx
    exact .inl hsame
  | engineIn hd x hx => exact .inl hx.binding
  | engineOut hd x hx => exact .inl hx.binding
  | same => exact .inl hsame
  | ack => exact .inl hsame

/-- A bound buffer has its trigger unit and address from before the step, or from a binding that did not
fail. -/
theorem BufferEffect.bound_inv {s : State} {b : Idx} {e : Event} {x : Buffer} (h : BufferEffect s b e x)
    (he : e ≠ .reset) (hi : StartInv s) (hx : x.bound = true) :
    b.val < s.cfg.nBuf ∧ x.trig.u.val < s.cfg.u ∧ unitStateOf s x.trig ≠ .free ∧ x.fifoAddr.toNat % 4 = 0 := by
  obtain ⟨-, hbound, -⟩ := hi
  rcases h.binding he with ⟨hb, htrig, haddr, -⟩ | ⟨hlt, hu, harms⟩
  · rw [htrig, haddr]
    exact hbound b (hb ▸ hx)
  · simp only [CannotArm, not_or, not_not] at harms
    obtain ⟨-, haligned, hfree, -⟩ := harms
    exact ⟨hlt, hu, hfree, haligned⟩

/-- The trigger unit of a buffer just written triggers no other bound buffer. -/
theorem BufferEffect.trig_ne {s : State} {i b : Idx} {e : Event} {x : Buffer} (h : BufferEffect s i e x)
    (he : e ≠ .reset) (hi : StartInv s) (hx : x.bound = true) (hib : i ≠ b) (hb : (bufOf s b).bound = true) :
    x.trig ≠ (bufOf s b).trig := by
  obtain ⟨-, hbound, hdistinct⟩ := hi
  rcases h.binding he with ⟨hxb, htrig, -⟩ | ⟨-, -, harms⟩
  · rw [htrig]
    exact hdistinct i b hib (hxb ▸ hx) hb
  · intro hsame
    obtain ⟨hlt, -⟩ := hbound b hb
    exact harms (.inr (.inr (.inr (.inr ⟨b, hib.symm, hlt, hb, hsame.symm⟩))))

/-- A step that writes at most one buffer keeps the trigger units distinct. -/
theorem WritesOneBuffer.trig_ne {s t : State} {e : Event} (h : WritesOneBuffer s t e) (he : e ≠ .reset)
    (hi : StartInv s) {b b' : Idx} (hne : b ≠ b') (hb : (bufOf t b).bound = true)
    (hb' : (bufOf t b').bound = true) : (bufOf t b).trig ≠ (bufOf t b').trig := by
  rcases h with hsame | ⟨i, x, heffect, hwrite⟩
  · obtain ⟨-, -, hdistinct⟩ := hi
    rw [hsame] at hb hb' ⊢
    rw [hsame]
    exact hdistinct b b' hne hb hb'
  · rw [hwrite, bufOf_setBuf] at hb hb'
    rw [hwrite, hwrite, bufOf_setBuf, bufOf_setBuf]
    by_cases hib : i = b
    · have hib' : i ≠ b' := hib ▸ hne
      rw [if_pos hib] at hb
      rw [if_neg hib'] at hb'
      rw [if_pos hib, if_neg hib']
      exact heffect.trig_ne he hi hb hib' hb'
    · rw [if_neg hib] at hb
      rw [if_neg hib]
      split at hb'
      · next hib' =>
        rw [if_pos hib']
        exact (heffect.trig_ne he hi hb' hib hb).symm
      · next hib' =>
        obtain ⟨-, -, hdistinct⟩ := hi
        rw [if_neg hib']
        exact hdistinct b b' hne hb hb'

theorem startInv_step {s t : State} (hi : StartInv s) (hstep : step s = .next t) (he : (nextEvent s).1 ≠ .reset) :
    StartInv t := by
  refine ⟨fun ha x => ?_, fun b hb => ?_, fun b b' hne hb hb' =>
    (step_writesOneBuffer hstep he).trig_ne he hi hne hb hb'⟩
  · have hgate : s.armed = false := by
      by_contra harmed
      simp [step_keeps_armed hstep he (by simpa using harmed)] at ha
    obtain ⟨hrun, -, -⟩ := hi
    exact (step_unitEffect hstep x).not_running he ha (hrun hgate x)
  · obtain ⟨hlt, hu, hfree, haddr⟩ := (step_bufferEffect hstep b).bound_inv he hi hb
    rw [step_keeps_cfg hstep]
    exact ⟨hlt, hu, (step_unitEffect hstep _).not_free he hfree, haddr⟩

/-- Settles O47: outside reset a step writes one buffer and moves units forward; reset unbinds every buffer. -/
theorem startInvIsKept : Obligations.StartInvIsKept := by
  intro s t hi hstep
  by_cases he : (nextEvent s).1 = .reset
  · rw [step_of_reset hstep he]
    exact startInv_resetWith _
  · exact startInv_step hi hstep he

end Sys2Proof.Machine
end

section
/-! PROOFS. The decoder, the encoder and the opcode table: the fields of a command word, the opcode byte, the
must-be-zero bits as a mask, and from these the two round trips and the words that are no command
(30_encoding.md R90 to R98, R103). -/

namespace Sys2Proof

/-! ## The fields of a command word (30_encoding.md R91) -/

/-- The word with the given fields; `packWord` is the one whose first byte is an opcode. -/
def joinFields (op : BitVec 8) (sa sb : BitVec 4) (imm : BitVec 16) : Word :=
  (op ++ sa ++ sb ++ imm : BitVec 32)

theorem packWord_eq_joinFields (o : Opcode) (sa sb : BitVec 4) (imm : BitVec 16) :
    packWord o sa sb imm = joinFields o.code sa sb imm := rfl

section
variable (op : BitVec 8) (sa sb : BitVec 4) (imm : BitVec 16)

@[simp] theorem opField_joinFields : opField (joinFields op sa sb imm) = op := by
  change (op ++ sa ++ sb ++ imm).extractLsb' 24 8 = op
  rw [BitVec.extractLsb'_append_eq_of_le (by decide), BitVec.extractLsb'_append_eq_of_le (by decide)]
  exact BitVec.extractLsb'_append_eq_left

@[simp] theorem saField_joinFields : saField (joinFields op sa sb imm) = sa := by
  change (op ++ sa ++ sb ++ imm).extractLsb' 20 4 = sa
  rw [BitVec.extractLsb'_append_eq_of_le (by decide), BitVec.extractLsb'_append_eq_of_le (by decide)]
  exact BitVec.extractLsb'_append_eq_right

@[simp] theorem sbField_joinFields : sbField (joinFields op sa sb imm) = sb := by
  change (op ++ sa ++ sb ++ imm).extractLsb' 16 4 = sb
  rw [BitVec.extractLsb'_append_eq_of_le (by decide)]
  exact BitVec.extractLsb'_append_eq_right

@[simp] theorem immField_joinFields : immField (joinFields op sa sb imm) = imm :=
  BitVec.extractLsb'_append_eq_right

end

/-- A word is made of its four fields. -/
theorem joinFields_fields (cw : Word) : joinFields (opField cw) (saField cw) (sbField cw) (immField cw) = cw := by
  have hsa : cw.extractLsb' 24 8 ++ cw.extractLsb' 20 4 = cw.extractLsb' 20 12 :=
    BitVec.extractLsb'_append_extractLsb'_eq_extractLsb' rfl
  have hsb : cw.extractLsb' 20 12 ++ cw.extractLsb' 16 4 = cw.extractLsb' 16 16 :=
    BitVec.extractLsb'_append_extractLsb'_eq_extractLsb' rfl
  have himm : cw.extractLsb' 16 16 ++ cw.extractLsb' 0 16 = cw :=
    BitVec.extractLsb'_append_extractLsb'
  rw [joinFields, opField, saField, sbField, immField, hsa, hsb, himm]

theorem word_ext_iff {cw cw' : Word} :
    cw = cw' ↔ opField cw = opField cw' ∧ saField cw = saField cw' ∧ sbField cw = sbField cw' ∧
      immField cw = immField cw' := by
  constructor
  · rintro rfl
    exact ⟨rfl, rfl, rfl, rfl⟩
  · rintro ⟨hop, hsa, hsb, himm⟩
    rw [← joinFields_fields cw, hop, hsa, hsb, himm, joinFields_fields]

section
variable (x y : Word)

theorem opField_and : opField (x &&& y) = opField x &&& opField y := BitVec.extractLsb'_and

theorem saField_and : saField (x &&& y) = saField x &&& saField y := BitVec.extractLsb'_and

theorem sbField_and : sbField (x &&& y) = sbField x &&& sbField y := BitVec.extractLsb'_and

theorem immField_and : immField (x &&& y) = immField x &&& immField y := BitVec.extractLsb'_and

end

/-! ## The opcode byte (30_encoding.md R95, R97) -/

theorem mem_opcodeAll (o : Opcode) : o ∈ Opcode.all := by cases o <;> decide

@[simp] theorem ofCode_code (o : Opcode) : Opcode.ofCode o.code = some o := by cases o <;> rfl

theorem ofCode_eq_some_iff {b : BitVec 8} {o : Opcode} : Opcode.ofCode b = some o ↔ b = o.code := by
  constructor
  · intro h
    have hfound : (o.code == b) = true := List.find?_some (p := fun o : Opcode => o.code == b) h
    exact (beq_iff_eq.mp hfound).symm
  · rintro rfl
    exact ofCode_code o

theorem code_injective {o o' : Opcode} (h : o.code = o'.code) : o = o' :=
  Option.some.inj ((ofCode_code o).symm.trans (ofCode_eq_some_iff.mpr h))

/-! ## The decoder (30_encoding.md R97, R98) -/

/-- A word is legal when its first byte is an opcode and the must-be-zero bits of that opcode are 0. -/
theorem decode_eq_ok_iff {cw data : Word} {i : Instr} :
    decode cw data = .ok i ↔ ∃ o, opField cw = o.code ∧ mbzClear o cw = true ∧ assemble o cw data = i := by
  constructor
  · intro h
    unfold decode at h
    split at h
    · cases h
    · next o ho =>
      split at h
      · next hz => exact ⟨o, ofCode_eq_some_iff.mp ho, hz, Except.ok.inj h⟩
      · cases h
  · rintro ⟨o, ho, hz, rfl⟩
    simp [decode, ho, hz]

@[simp] theorem opcode_assemble (o : Opcode) (cw data : Word) : (assemble o cw data).opcode = o := by
  cases o <;> rfl

/-- Format N ignores the data word (30_encoding.md R92). -/
theorem assemble_format_N {o : Opcode} (h : o.format = .N) (cw data data' : Word) :
    assemble o cw data' = assemble o cw data := by
  cases o with
  | ldc | step | chain | alIn | alOut | wr | wrb | begin_ => cases h
  | _ => rfl

/-! ## The opcode table (30_encoding.md R98) -/

/-- The must-be-zero bits of `sa`. -/
def mbzSa : Opcode → BitVec 4
  | .alIn | .alOut | .claim | .arm | .csr => 0xF
  | _ => 0

/-- The must-be-zero bits of `sb`. -/
def mbzSb : Opcode → BitVec 4
  | .ldc | .rds | .step | .en => 0
  | _ => 0xF

/-- The must-be-zero bits of `imm16`. -/
def mbzImm : Opcode → BitVec 16
  | .ldc => 0xFFF8
  | .rds => 0xFFF0
  | .begin_ => 0xFE00
  | .claim => 0x00F0
  | .csr => 0xF000
  | _ => 0xFFFF

/-- The row of the opcode table for an opcode: it fixes the opcode byte and the must-be-zero bits. -/
def rowOf (o : Opcode) : OpRow := ⟨o, packWord o 0 0 0, joinFields 0xFF (mbzSa o) (mbzSb o) (mbzImm o)⟩

theorem opTable_eq_map_rowOf : opTable = Opcode.all.map rowOf := rfl

theorem rowOf_mem_opTable (o : Opcode) : rowOf o ∈ opTable := by
  rw [opTable_eq_map_rowOf]
  exact List.mem_map_of_mem (mem_opcodeAll o)

theorem eq_rowOf_of_mem {r : OpRow} (h : r ∈ opTable) : r = rowOf r.op := by
  rw [opTable_eq_map_rowOf, List.mem_map] at h
  obtain ⟨o, -, rfl⟩ := h
  rfl

/-- Masking a word with the bits from `lo` to `lo + len - 1` gives 0 when that field of it is 0. -/
theorem and_eq_zero_iff_field {w lo len : Nat} {x m : BitVec w}
    (hm : ∀ j : Fin w, m.getLsbD j = decide (lo ≤ j ∧ j < lo + len)) (hw : lo + len ≤ w) :
    x &&& m = 0 ↔ x.extractLsb' lo len = 0 := by
  constructor
  · intro h
    apply BitVec.eq_of_getLsbD_eq
    intro j hj
    have hbit := congrArg (·.getLsbD (lo + j)) h
    have hmask : m.getLsbD (lo + j) = true := by simp [hm ⟨lo + j, by omega⟩, hj]
    simpa [hj, hmask] using hbit
  · intro h
    apply BitVec.eq_of_getLsbD_eq
    intro j hj
    by_cases hin : lo ≤ j ∧ j < lo + len
    · obtain ⟨hlo, hhi⟩ := hin
      have hbit := congrArg (·.getLsbD (j - lo)) h
      have hlen : j - lo < len := by omega
      simp [hlo, hlen] at hbit
      simp [hbit]
    · simp [hm ⟨j, hj⟩, hin]

theorem immField_and_mask (x : BitVec 16) :
    (x &&& 0xFFF8#16 = 0#16 ↔ x.extractLsb' 3 13 = 0#13) ∧
    (x &&& 0xFFF0#16 = 0#16 ↔ x.extractLsb' 4 12 = 0#12) ∧
    (x &&& 0xFE00#16 = 0#16 ↔ x.extractLsb' 9 7 = 0#7) ∧
    (x &&& 0x00F0#16 = 0#16 ↔ x.extractLsb' 4 4 = 0#4) ∧
    (x &&& 0xF000#16 = 0#16 ↔ x.extractLsb' 12 4 = 0#4) :=
  ⟨and_eq_zero_iff_field (by decide) (by decide), and_eq_zero_iff_field (by decide) (by decide),
    and_eq_zero_iff_field (by decide) (by decide), and_eq_zero_iff_field (by decide) (by decide),
    and_eq_zero_iff_field (by decide) (by decide)⟩

/-- The must-be-zero check is a mask on each field. -/
theorem mbzClear_iff (o : Opcode) (cw : Word) :
    mbzClear o cw = true ↔
      saField cw &&& mbzSa o = 0 ∧ sbField cw &&& mbzSb o = 0 ∧ immField cw &&& mbzImm o = 0 := by
  have all4 (x : BitVec 4) : x &&& 0xF#4 = x := BitVec.and_allOnes
  have all16 (x : BitVec 16) : x &&& 0xFFFF#16 = x := BitVec.and_allOnes
  obtain ⟨hldc, hrds, hbegin, hclaim, hcsr⟩ := immField_and_mask (immField cw)
  cases o <;>
    simp [mbzClear, mbzSa, mbzSb, mbzImm, all4, all16, hldc, hrds, hbegin, hclaim, hcsr, and_assoc]

/-- A word matches an opcode's row when it has that opcode and its must-be-zero bits are 0. -/
theorem rowOf_matches_iff (o : Opcode) (cw : Word) :
    (rowOf o).matches cw = true ↔ opField cw = o.code ∧ mbzClear o cw = true := by
  have all8 (x : BitVec 8) : x &&& 0xFF#8 = x := BitVec.and_allOnes
  rw [mbzClear_iff, OpRow.matches, beq_iff_eq, word_ext_iff, opField_and, saField_and, sbField_and, immField_and]
  simp [rowOf, packWord_eq_joinFields, all8]

theorem exists_matches_iff {cw : Word} :
    (∃ r ∈ opTable, r.matches cw = true) ↔ ∃ o, opField cw = o.code ∧ mbzClear o cw = true := by
  constructor
  · rintro ⟨r, hr, hm⟩
    rw [eq_rowOf_of_mem hr] at hm
    exact ⟨r.op, (rowOf_matches_iff _ _).mp hm⟩
  · rintro ⟨o, h⟩
    exact ⟨rowOf o, rowOf_mem_opTable o, (rowOf_matches_iff _ _).mpr h⟩

/-! ## Encoding and decoding again (30_encoding.md R91, R94) -/

theorem encodesItsRow (i : Instr) : Laws.EncodesItsRow.Statement i := by
  cases i with
  | bqLdc ch st k coef => exact Laws.EncodesItsRow.bqLdc ch st k coef
  | bqRds ch st r => exact Laws.EncodesItsRow.bqRds ch st r
  | bqStep ch st x => exact Laws.EncodesItsRow.bqStep ch st x
  | bqChain ch x => exact Laws.EncodesItsRow.bqChain ch x
  | alIn w => exact Laws.EncodesItsRow.alIn w
  | alOut v => exact Laws.EncodesItsRow.alOut v
  | rbWr b w => exact Laws.EncodesItsRow.rbWr b w
  | rbWrb b w => exact Laws.EncodesItsRow.rbWrb b w
  | rbRd b => exact Laws.EncodesItsRow.rbRd b
  | rbRdb b => exact Laws.EncodesItsRow.rbRdb b
  | rbBegin b tblk tu cb a => exact Laws.EncodesItsRow.rbBegin b tblk tu cb a
  | rbAck b => exact Laws.EncodesItsRow.rbAck b
  | arbClaim p len => exact Laws.EncodesItsRow.arbClaim p len
  | seqEn blk u => exact Laws.EncodesItsRow.seqEn blk u
  | syncArm => exact Laws.EncodesItsRow.syncArm
  | csrRd csr => exact Laws.EncodesItsRow.csrRd csr

/-- The encoded word has the command's opcode and its must-be-zero bits are 0. -/
theorem encode_legal (i : Instr) :
    opField (encode i).cw = i.opcode.code ∧ mbzClear i.opcode (encode i).cw = true := by
  obtain ⟨r, hr, hop, hm⟩ := encodesItsRow i
  rw [eq_rowOf_of_mem hr, hop] at hm
  exact (rowOf_matches_iff _ _).mp hm

/-! The immediates that hold operands: their fields give the operands back. -/

theorem low_setWidth {n : Nat} (x : BitVec n) (h : n ≤ 16) : (x.setWidth 16).extractLsb' 0 n = x := by
  rw [BitVec.extractLsb'_setWidth_of_le (by omega), BitVec.extractLsb'_eq_self]

theorem beginImm_fields (tblk tu : BitVec 4) (cb : Bool) :
    (0#7 ++ BitVec.ofBool cb ++ tblk ++ tu : BitVec 16).extractLsb' 4 4 = tblk ∧
    (0#7 ++ BitVec.ofBool cb ++ tblk ++ tu : BitVec 16).extractLsb' 0 4 = tu ∧
    (0#7 ++ BitVec.ofBool cb ++ tblk ++ tu : BitVec 16)[8] = cb := by
  refine ⟨?_, BitVec.extractLsb'_append_eq_right, ?_⟩
  · rw [BitVec.extractLsb'_append_eq_of_le (by decide)]
    exact BitVec.extractLsb'_append_eq_right
  · change (0#7 ++ BitVec.ofBool cb ++ tblk ++ tu)[8]'(by decide) = cb
    simp only [BitVec.getElem_append]
    simp

theorem claimImm_fields (p : BitVec 4) (len : BitVec 8) :
    (len ++ 0#4 ++ p : BitVec 16).extractLsb' 0 4 = p ∧ (len ++ 0#4 ++ p : BitVec 16).extractLsb' 8 8 = len := by
  refine ⟨BitVec.extractLsb'_append_eq_right, ?_⟩
  rw [BitVec.extractLsb'_append_eq_of_le (by decide)]
  exact BitVec.extractLsb'_append_eq_left

theorem assemble_encode (i : Instr) : assemble i.opcode (encode i).cw (encode i).data = i := by
  cases i with
  | bqLdc | bqRds | csrRd => simp [assemble, encode, Instr.opcode, packWord_eq_joinFields, low_setWidth]
  | rbBegin b tblk tu cb a =>
    obtain ⟨htblk, htu, hcb⟩ := beginImm_fields tblk tu cb
    simp [assemble, encode, Instr.opcode, packWord_eq_joinFields, htblk, htu, hcb]
  | arbClaim p len =>
    obtain ⟨hp, hlen⟩ := claimImm_fields p len
    simp [assemble, encode, Instr.opcode, packWord_eq_joinFields, hp, hlen]
  | _ => simp [assemble, encode, Instr.opcode, packWord_eq_joinFields]

/-- Settles O1: the encoded word is legal with the command's opcode, and its fields are the operands. -/
theorem decodeOfEncodeGivesTheCommand : Obligations.DecodeOfEncodeGivesTheCommand := by
  intro i
  obtain ⟨hop, hz⟩ := encode_legal i
  exact decode_eq_ok_iff.mpr ⟨i.opcode, hop, hz, assemble_encode i⟩

/-! ## Decoding and encoding again (30_encoding.md R90, R92) -/

section
variable {x : BitVec 16}

/-- A number is its lowest `n` bits when the others are 0. -/
theorem setWidth_low_field {n len : Nat} (h : x.extractLsb' n len = 0) (hn : n + len = 16) :
    (x.extractLsb' 0 n).setWidth 16 = x := by
  apply BitVec.eq_of_getLsbD_eq
  intro j hj
  by_cases hlow : j < n
  · simp [hj, hlow]
  · have hbit := congrArg (·.getLsbD (j - n)) h
    have hlen : j - n < len := by omega
    have hback : n + (j - n) = j := by omega
    simp [hlen, hback] at hbit
    simp [hlow, hbit]

theorem beginImm_of_fields (h : x.extractLsb' 9 7 = 0) :
    (0#7 ++ BitVec.ofBool (x.getLsbD 8) ++ x.extractLsb' 4 4 ++ x.extractLsb' 0 4 : BitVec 16) = x := by
  have hbit : BitVec.ofBool (x.getLsbD 8) = x.extractLsb' 8 1 := by
    ext j hj
    have : j = 0 := by omega
    subst this
    simp
  have htop : 0#7 ++ x.extractLsb' 8 1 = x.extractLsb' 8 8 := by
    rw [← show x.extractLsb' 9 7 = 0#7 from h]
    exact BitVec.extractLsb'_append_extractLsb'_eq_extractLsb' rfl
  have hmid : x.extractLsb' 8 8 ++ x.extractLsb' 4 4 = x.extractLsb' 4 12 :=
    BitVec.extractLsb'_append_extractLsb'_eq_extractLsb' rfl
  rw [hbit, htop, hmid]
  exact BitVec.extractLsb'_append_extractLsb'

theorem claimImm_of_fields (h : x.extractLsb' 4 4 = 0) :
    (x.extractLsb' 8 8 ++ 0#4 ++ x.extractLsb' 0 4 : BitVec 16) = x := by
  have hmid : x.extractLsb' 8 8 ++ x.extractLsb' 4 4 = x.extractLsb' 4 12 :=
    BitVec.extractLsb'_append_extractLsb'_eq_extractLsb' rfl
  rw [← show x.extractLsb' 4 4 = 0#4 from h, hmid]
  exact BitVec.extractLsb'_append_extractLsb'

end

/-- The word of an assembled command has the fields of the word it was assembled from. -/
theorem encode_assemble_cw {o : Opcode} {cw : Word} (data : Word) (h : mbzClear o cw = true) :
    (encode (assemble o cw data)).cw = joinFields o.code (saField cw) (sbField cw) (immField cw) := by
  cases o with
  | ldc | rds =>
    have hz := beq_iff_eq.mp h
    simp only [assemble, encode, packWord_eq_joinFields, setWidth_low_field hz]
  | csr =>
    obtain ⟨⟨hsa, hsb⟩, hz⟩ : (saField cw = 0 ∧ sbField cw = 0) ∧ (immField cw).extractLsb' 12 4 = 0 := by
      simpa [mbzClear] using h
    simp only [assemble, encode, packWord_eq_joinFields, hsa, hsb, setWidth_low_field hz]
  | begin_ =>
    obtain ⟨hsb, hz⟩ : sbField cw = 0 ∧ (immField cw).extractLsb' 9 7 = 0 := by simpa [mbzClear] using h
    simp only [assemble, encode, packWord_eq_joinFields, hsb, beginImm_of_fields hz]
  | claim =>
    obtain ⟨⟨hsa, hsb⟩, hz⟩ : (saField cw = 0 ∧ sbField cw = 0) ∧ (immField cw).extractLsb' 4 4 = 0 := by
      simpa [mbzClear] using h
    simp only [assemble, encode, packWord_eq_joinFields, hsa, hsb, claimImm_of_fields hz]
  | _ =>
    simp only [mbzClear, Bool.and_eq_true, beq_iff_eq] at h
    simp only [assemble, encode, packWord_eq_joinFields, h]

/-- Format D keeps the data word (30_encoding.md R92). -/
theorem encode_assemble_data {o : Opcode} (h : o.format = .D) (cw data : Word) :
    (encode (assemble o cw data)).data = data := by
  cases o with
  | rds | rd | rdb | ack | claim | en | arm | csr => cases h
  | _ => rfl

/-- Settles O2: the encoded word has the fields of the decoded one. -/
theorem encodeOfDecodeGivesTheWords : Obligations.EncodeOfDecodeGivesTheWords := by
  intro cw data i h
  obtain ⟨o, hop, hz, rfl⟩ := decode_eq_ok_iff.mp h
  rw [opcode_assemble]
  refine ⟨?_, fun hD => encode_assemble_data hD cw data, fun hN data' => ?_⟩
  · rw [encode_assemble_cw data hz, ← hop, joinFields_fields]
  · exact decode_eq_ok_iff.mpr ⟨o, hop, hz, assemble_format_N hN cw data data'⟩

/-- A command of format D decodes from the words it encodes to. -/
theorem decode_of_encode_eq {i : Instr} {cw data : Word} (h : encode i = ⟨cw, data⟩) :
    decode cw data = .ok i := by
  have hdecode := decodeOfEncodeGivesTheCommand i
  rwa [h] at hdecode

/-- A command of format N decodes from its command word and any data word. -/
theorem decode_of_encode_cw {i : Instr} {cw : Word} (h : (encode i).cw = cw) (hN : i.opcode.format = .N)
    (data : Word) : decode cw data = .ok i := by
  obtain ⟨-, -, hany⟩ := encodeOfDecodeGivesTheWords _ _ i (decodeOfEncodeGivesTheCommand i)
  rw [← h]
  exact hany hN data

/-- Settles O4: the encodings are evaluated, and each word decodes by O1 and, with any data word, by O2. -/
theorem workedEncodingsDecode : Obligations.WorkedEncodingsDecode := by
  have hstep (x : Word) : encode (.bqStep 1 2 x) = ⟨0x12120000, x⟩ := rfl
  have hldc (c : Word) : encode (.bqLdc 0 0 3 c) = ⟨0x10000003, c⟩ := rfl
  have hbegin : encode (.rbBegin 1 0 2 true 0x50200018) = ⟨0x24100102, 0x50200018⟩ := rfl
  have hclaim : (encode (.arbClaim 3 8)).cw = 0x30000803 := rfl
  have hen : (encode (.seqEn 1 3)).cw = 0x31130000 := rfl
  have hcsr : (encode (.csrRd 0x108)).cw = 0x3F000108 := rfl
  have harm : (encode .syncArm).cw = 0x32000000 := rfl
  exact ⟨fun x => ⟨hstep x, decode_of_encode_eq (hstep x)⟩, fun c => ⟨hldc c, decode_of_encode_eq (hldc c)⟩,
    ⟨hbegin, decode_of_encode_eq hbegin⟩, ⟨hclaim, decode_of_encode_cw hclaim rfl⟩,
    ⟨hen, decode_of_encode_cw hen rfl⟩, ⟨hcsr, decode_of_encode_cw hcsr rfl⟩,
    ⟨harm, decode_of_encode_cw harm rfl⟩⟩

/-! ## Words that are no command (30_encoding.md R97, R98) -/

/-- A word is legal when it matches a row. -/
theorem legal_iff_matches (cw data : Word) :
    (∃ i, decode cw data = .ok i) ↔ ∃ r ∈ opTable, r.matches cw = true := by
  rw [exists_matches_iff]
  constructor
  · rintro ⟨i, h⟩
    obtain ⟨o, hop, hz, -⟩ := decode_eq_ok_iff.mp h
    exact ⟨o, hop, hz⟩
  · rintro ⟨o, hop, hz⟩
    exact ⟨assemble o cw data, decode_eq_ok_iff.mpr ⟨o, hop, hz, rfl⟩⟩

/-- A word that matches a row has the row's opcode. -/
theorem opField_of_matches {r : OpRow} {cw : Word} (hr : r ∈ opTable) (hm : r.matches cw = true) :
    opField cw = r.op.code := by
  rw [eq_rowOf_of_mem hr] at hm
  obtain ⟨hop, -⟩ := (rowOf_matches_iff r.op cw).mp hm
  exact hop

theorem not_matches_of_reserved {cw : Word} (hcw : ∀ o ∈ Opcode.all, o.code ≠ opField cw) {r : OpRow}
    (hr : r ∈ opTable) : r.matches cw = false :=
  Bool.eq_false_iff.mpr fun hm => hcw r.op (mem_opcodeAll _) (opField_of_matches hr hm).symm

end Sys2Proof

namespace Sys2Proof.Machine

/-- Settles O3: the rows are those of the opcodes, and a word matches at most the row of its first byte. -/
theorem illegalWordsAreAnsweredIllegal : Obligations.IllegalWordsAreAnsweredIllegal := by
  refine ⟨legal_iff_matches, ?_, ?_, fun cw hcw r hr => not_matches_of_reserved hcw hr, ?_, ?_⟩
  · intro cw data i h
    obtain ⟨o, hop, hz, rfl⟩ := decode_eq_ok_iff.mp h
    exact ⟨rowOf o, rowOf_mem_opTable o, (opcode_assemble o cw data).symm,
      (rowOf_matches_iff o cw).mpr ⟨hop, hz⟩⟩
  · intro cw r hr r' hr' hm hm'
    have hop : r.op = r'.op := code_injective ((opField_of_matches hr hm).symm.trans (opField_of_matches hr' hm'))
    rw [eq_rowOf_of_mem hr, eq_rowOf_of_mem hr', hop]
  · exact fun r hr => ⟨not_matches_of_reserved (by decide) hr, not_matches_of_reserved (by decide) hr⟩
  · intro s c hh hno
    have hillegal (i : Instr) : decode c.cw c.data ≠ .ok i := fun h => by
      obtain ⟨r, hr, hm⟩ := (legal_iff_matches c.cw c.data).mp ⟨i, h⟩
      exact absurd hm (by simp [hno r hr])
    refine ⟨refuse .illegal s, ?_, refused_refuse .illegal s⟩
    simpa [hh] using executeCommand_of_not_legal hillegal s

end Sys2Proof.Machine
end

section
/-! PROOFS. The responses of a step: at most one, to a slot that held a command (30_encoding.md R93, 10_state.md
R45). -/

namespace Sys2Proof.Machine

/-! ## Steps without a response and steps with one -/

/-- From `s` to `t` nothing is delivered and no slot that held a command loses it. -/
def Silent (s t : State) : Prop :=
  t.trace = s.trace ∧ ∀ p, slotOf s p ≠ none → slotOf t p = slotOf s p

/-- From `s` to `t` one response is delivered, to a slot that held a command and is then empty, and every other
slot keeps what it holds. -/
def AnswersOne (s t : State) : Prop :=
  ∃ r : Response, t.trace = s.trace ++ [r] ∧ slotOf s r.port ≠ none ∧ slotOf t r.port = none ∧
    (r.status ≠ .ok → r.rdata = 0) ∧ ∀ p, p ≠ r.port → slotOf t p = slotOf s p

section
variable {s t u : State}

theorem silent_of_slots (ht : t.trace = s.trace) (hs : t.slots = s.slots) : Silent s t :=
  ⟨ht, fun p _ => by simp only [slotOf, hs]⟩

/-- Presenting a command fills an empty slot and touches no other. -/
theorem silent_setSlot {p : Port} (c : Option Command) (hp : slotOf s p = none) : Silent s (setSlot s p c) := by
  refine ⟨rfl, fun q hq => ?_⟩
  have hpq : p ≠ q := fun h => hq (h ▸ hp)
  rw [slotOf_setSlot, if_neg hpq]

/-- A response after an update that touches neither the slots nor the trace. -/
theorem answersOne_respondTo {p : Port} {st : Status} {v : Word} (ht : u.trace = s.trace) (hs : u.slots = s.slots)
    (hp : slotOf s p ≠ none) (hv : st ≠ .ok → v = 0) : AnswersOne s (respondTo p st v u) := by
  refine ⟨⟨p, st, v⟩, ?_, hp, ?_, hv, fun q hq => ?_⟩
  · rw [respondTo_trace, ht]
  · rw [slotOf_respondTo, if_pos rfl]
  · rw [slotOf_respondTo, if_neg hq.symm]
    simp only [slotOf, hs]

theorem answersOne_raiseFatal {p : Port} (e : FatalError) (ht : u.trace = s.trace) (hs : u.slots = s.slots)
    (hp : slotOf s p ≠ none) : AnswersOne s (raiseFatal e p u) := by
  unfold raiseFatal
  split
  · exact answersOne_respondTo ht hs hp (fun _ => rfl)
  · exact answersOne_respondTo ht hs hp (fun _ => rfl)

end

/-! ## Each transition -/

/-- A command executed for a slot that holds it is held, accepted or answered. -/
theorem exec_silent_or_answersOne {s t : State} {p : Port} (h : ExecEffect (setIssuer p s) t)
    (hp : slotOf s p ≠ none) : Silent s t ∨ AnswersOne s t := by
  cases h with
  | held | accept => exact .inl (silent_of_slots rfl rfl)
  | refused => exact .inr (answersOne_respondTo rfl rfl hp (fun _ => rfl))
  | deadlock | initFailure => exact .inr (answersOne_raiseFatal _ rfl rfl hp)
  | _ => exact .inr (answersOne_respondTo rfl rfl hp (fun h => absurd rfl h))

section
variable {s : State} (hp : slotOf s s.arbReq.port ≠ none)
include hp

theorem answersOne_failClaim : AnswersOne s (failClaim s) :=
  answersOne_raiseFatal .resourceExhausted rfl rfl hp

theorem arbScan_silent_or_answersOne : Silent s (arbScan s) ∨ AnswersOne s (arbScan s) := by
  unfold arbScan
  split
  · exact .inr (answersOne_failClaim hp)
  · exact .inl (silent_of_slots rfl rfl)

theorem arbLoad_silent_or_answersOne : Silent s (arbLoad s) ∨ AnswersOne s (arbLoad s) := by
  simp only [arbLoad]
  split
  · exact .inl (silent_of_slots rfl rfl)
  · split
    · exact .inl (silent_of_slots rfl rfl)
    · exact .inr (answersOne_failClaim hp)

theorem answersOne_arbRecord : AnswersOne s (arbRecord s) :=
  answersOne_respondTo rfl rfl hp (fun h => absurd rfl h)

end

/-- Outside reset an event answers at most one command, if the claim in progress is outstanding. -/
theorem event_silent_or_answersOne {s t : State} {e : Event} (h : EventEffect s e t) (he : e ≠ .reset)
    (hclaim : s.arbState ≠ .idle → s.halt = false → slotOf s s.arbReq.port ≠ none) :
    Silent s t ∨ AnswersOne s t := by
  cases h with
  | reset => exact absurd rfl he
  | present p c hp => exact .inl (silent_setSlot _ hp)
  | serve p c hc hw t h => exact exec_silent_or_answersOne h (by simp [hc])
  | scan hh hs => exact arbScan_silent_or_answersOne (hclaim (by simp [hs]) hh)
  | load hh hs => exact arbLoad_silent_or_answersOne (hclaim (by simp [hs]) hh)
  | record hh hs => exact .inr (answersOne_arbRecord (hclaim (by simp [hs]) hh))
  | nothing | engineIn | engineOut => exact .inl (silent_of_slots rfl rfl)

/-- Settles O56: the reset input delivers nothing, and any other event answers at most one command. -/
theorem aStepAnswersAtMostOneCommand : Obligations.AStepAnswersAtMostOneCommand := by
  intro s t hinv hstep
  obtain ⟨-, -, -, -, hclaim, -⟩ := hinv
  obtain ⟨agenda, envPos, hnext⟩ := nextEvent_eq_setSchedule s
  by_cases he : (nextEvent s).1 = .reset
  · refine .inl ⟨?_, fun hne => absurd he hne⟩
    rw [step_of_reset hstep he, hnext]
    rfl
  · have heffect := step_effect hstep
    rw [hnext] at heffect
    rcases event_silent_or_answersOne heffect he hclaim with ⟨htrace, hslots⟩ | hone
    · exact .inl ⟨htrace, fun _ => hslots⟩
    · exact .inr hone

end Sys2Proof.Machine
end

section
/-! PROOFS. Loading coefficients: BQ.LDC commands in sequence, and the identity filter (30_encoding.md R102,
40_coefficients.md R122, R123). -/

namespace Sys2Proof.Machine

/-! ## BQ.LDC in sequence (40_coefficients.md R123) -/

/-- A stage with the listed coefficients written, one after the other. -/
def loadCoefs (g : Stage) (l : List (Fin 5 × Word)) : Stage :=
  l.foldl (fun g kv => loadCoef g kv.1 kv.2) g

/-- The commands that write them. -/
def ldcCommands (ch st : BitVec 4) (l : List (Fin 5 × Word)) : List Instr :=
  l.map fun kv => .bqLdc ch st (BitVec.ofNat 3 kv.1.val) kv.2

section
variable {s : State} {ch st : BitVec 4} {ch' : Chan} {i : Idx}

/-- BQ.LDC before arming on a stage that exists. -/
theorem exec_bqLdc {k : BitVec 3} {k' : Fin 5} (hh : s.halt = false) (ha : s.armed = false)
    (hch : ch.toNat = ch'.val) (hst : st.toNat = i.val) (hi : i.val < s.cfg.nSt[ch']) (hk : k.toNat = k'.val)
    (v : Word) :
    exec (.bqLdc ch st k v) s = .next (respondOk 0 (setStage s ch' i (loadCoef (stageOf s ch' i) k' v))) := by
  change execBqLdc ch st k v s = _
  simp [execBqLdc, unlessHalted, hh, ha, selChan_of hch, selCoef_of hk, selStage_of hst hi]

/-- Commands BQ.LDC issued in sequence before arming load their coefficients and change nothing else. -/
theorem execAll_ldcCommands (hh : s.halt = false) (ha : s.armed = false) (hch : ch.toNat = ch'.val)
    (hst : st.toNat = i.val) (hi : i.val < s.cfg.nSt[ch']) (l : List (Fin 5 × Word)) :
    ∃ t, execAll (ldcCommands ch st l) s = .next t ∧ stageOf t ch' i = loadCoefs (stageOf s ch' i) l ∧
      t.trace = s.trace ++ List.replicate l.length ⟨s.issuer, .ok, 0⟩ ∧
      OnlyChanges s t [.stage ch' i, .slot s.issuer, .trace] := by
  induction l generalizing s with
  | nil => exact ⟨s, rfl, rfl, by simp, OnlyChanges.refl s _⟩
  | cons kv l ih =>
    obtain ⟨k, v⟩ := kv
    have hk : (BitVec.ofNat 3 k.val).toNat = k.val := by
      have := k.isLt
      rw [BitVec.toNat_ofNat]
      omega
    have hexec := exec_bqLdc hh ha hch hst hi hk v
    obtain ⟨t, hrest, hstage, htrace, hframe⟩ :=
      ih (s := respondOk 0 (setStage s ch' i (loadCoef (stageOf s ch' i) k v))) hh ha hi
    refine ⟨t, ?_, ?_, ?_, ?_⟩
    · simp only [ldcCommands, List.map_cons, execAll, hexec]
      exact hrest
    · rw [hstage, stageOf_respondOk_other, stageOf_setStage, if_pos ⟨rfl, rfl⟩]
      rfl
    · rw [htrace]
      simp [List.replicate_succ]
    · have hfirst := onlyChanges_respondOk_of 0 (setStage_issuer s ch' i _)
        (onlyChanges_setStage s ch' i (loadCoef (stageOf s ch' i) k v))
      exact (hfirst.trans hframe).mono (by simp)

end

theorem set_all_five {α : Type} (v : Vector α 5) (a b c d e : α) :
    ((((v.set 0 a).set 1 b).set 2 c).set 3 d).set 4 e = #v[a, b, c, d, e] := by
  apply Vector.ext
  intro j hj
  interval_cases j <;> simp

/-- Loading all five coefficients leaves exactly those, all valid; history and remainder stay. -/
theorem loadCoefs_all (g : Stage) (b0 b1 b2 a1 a2 : Word) :
    loadCoefs g [(0, b0), (1, b1), (2, b2), (3, a1), (4, a2)] =
      { g with coef := #v[b0, b1, b2, a1, a2], cval := #v[true, true, true, true, true] } := by
  rw [← set_all_five g.coef, ← set_all_five g.cval]
  rfl

theorem expandPseudo_ident (c : Config) (ch st : BitVec 4) :
    expandPseudo c (.ident ch st) =
      ldcCommands ch st [(0, BitVec.ofNat 32 (2 ^ c.q)), (1, 0), (2, 0), (3, 0), (4, 0)] := rfl

/-- Settles O12: BQ.IDENT is five BQ.LDC, which write every coefficient and nothing but coefficients. -/
theorem identMakesAnIdentityStage : Obligations.IdentMakesAnIdentityStage := by
  intro s ch st ch' i hh ha hch hst hi
  rw [expandPseudo_ident]
  obtain ⟨t, hexec, hstage, htrace, hframe⟩ := execAll_ldcCommands hh ha hch hst hi
    [(0, BitVec.ofNat 32 (2 ^ s.cfg.q)), (1, 0), (2, 0), (3, 0), (4, 0)]
  rw [loadCoefs_all] at hstage
  refine ⟨t, hexec, ?_, htrace, hframe, ?_⟩
  · rw [hstage]
    exact ⟨rfl, rfl⟩
  · rw [hstage]
    exact ⟨rfl, rfl, rfl, rfl, rfl⟩

end Sys2Proof.Machine
end

section
/-! PROOFS. Selectors: which of them name something that exists, and what a command answers when one does not
(30_encoding.md R99). -/

namespace Sys2Proof.Machine

/-! ## Selectors that name something, in the terms of `Instr.wellFormed` -/

theorem selChan_isSome (ch : BitVec 4) : (selChan ch).isSome = decide (ch.toNat < 2) := by
  rw [Bool.eq_iff_iff]
  simp [selChan, isSome_dite]

theorem selCoef_isSome (k : BitVec 3) : (selCoef k).isSome = decide (k.toNat ≤ 4) := by
  rw [Bool.eq_iff_iff]
  simp [selCoef, isSome_dite, Nat.lt_succ_iff]

theorem selReg_isSome (r : BitVec 4) : (selReg r).isSome = decide (r.toNat ≤ 9) := by
  rw [Bool.eq_iff_iff]
  simp only [selReg, isSome_dite, isSome_ite, Option.isSome_some, Option.isSome_none, exists_prop,
    decide_eq_true_eq, Bool.false_eq_true, and_false, or_false, and_true]
  omega

section
variable (c : Config)

theorem selBuf_isSome (b : BitVec 4) : (selBuf c b).isSome = decide (b.toNat < c.nBuf) := by
  rw [Bool.eq_iff_iff]
  simp [selBuf, isSome_ite]

variable {c} in
theorem exists_selBuf {b : BitVec 4} (h : decide (b.toNat < c.nBuf) = true) : ∃ i, selBuf c b = some i :=
  Option.isSome_iff_exists.mp ((selBuf_isSome c b).trans h)

theorem selUnit_isSome (blk u : BitVec 4) :
    (selUnit c blk u).isSome = (decide (blk.toNat < 2) && decide (u.toNat < c.u)) := by
  rw [Bool.eq_iff_iff]
  simp [selUnit, isSome_ite, isSome_dite]

theorem selProg_isSome (p : BitVec 4) : (selProg c p).isSome = decide (p.toNat < c.nProg) := by
  rw [Bool.eq_iff_iff]
  simp [selProg, isSome_ite]

theorem selStage_isSome (ch' : Chan) (st : BitVec 4) :
    (selStage c ch' st).isSome = decide (st.toNat < c.nSt[ch']) := by
  rw [Bool.eq_iff_iff]
  simp [selStage, isSome_ite]

theorem hasStage_of_chan {ch : BitVec 4} {ch' : Chan} (hch : ch.toNat = ch'.val) (st : BitVec 4) :
    c.hasStage ch st = decide (st.toNat < c.nSt[ch']) := by
  match ch' with
  | 0 => simp [Config.hasStage, hch]
  | 1 => simp [Config.hasStage, hch]

theorem selChan_eq_some {ch : BitVec 4} {ch' : Chan} (h : selChan ch = some ch') : ch.toNat = ch'.val := by
  unfold selChan at h
  split at h
  · cases h; rfl
  · cases h

/-- A stage selector pair names a stage when both selectors name something. -/
theorem hasStage_iff (ch st : BitVec 4) :
    c.hasStage ch st = true ↔ ∃ ch' i, selChan ch = some ch' ∧ selStage c ch' st = some i := by
  constructor
  · intro h
    have hch : (selChan ch).isSome = true := by
      simp only [Config.hasStage, Bool.or_eq_true, Bool.and_eq_true, beq_iff_eq] at h
      rw [selChan_isSome, decide_eq_true_eq]
      omega
    obtain ⟨ch', hch⟩ := Option.isSome_iff_exists.mp hch
    rw [hasStage_of_chan c (selChan_eq_some hch), ← selStage_isSome] at h
    obtain ⟨i, hi⟩ := Option.isSome_iff_exists.mp h
    exact ⟨ch', i, hch, hi⟩
  · rintro ⟨ch', i, hch, hi⟩
    rw [hasStage_of_chan c (selChan_eq_some hch), ← selStage_isSome, hi]
    rfl

theorem hasCsr_of_selCsr {csr : BitVec 12} (h : (selCsr c csr).isSome = true) : c.hasCsr csr.toNat = true := by
  rw [selCsr_isSome] at h
  simp only [Config.hasCsr, Bool.or_eq_true, decide_eq_true_eq]
  omega

/-- Under a legal configuration every number of the map names a CSR (45_system.md R225). -/
theorem selCsr_of_hasCsr {csr : BitVec 12} (hc : c.Valid) (h : c.hasCsr csr.toNat = true) :
    (selCsr c csr).isSome = true := by
  obtain ⟨-, -, -, -, ⟨-, hProg⟩, ⟨-, hBuf⟩, -⟩ := hc
  simp only [Config.hasCsr, Bool.or_eq_true, decide_eq_true_eq] at h
  rw [selCsr_isSome]
  omega

end

/-! ## A command with a selector out of range -/

theorem unlessHalted_of_running {s : State} (hh : s.halt = false) (k : Host.Outcome State Fault Refusal) :
    unlessHalted s k = k := by
  simp [unlessHalted, hh]

/-- Each branch of a command's meaning but BADSEL is under selectors that all name something. -/
theorem exec_of_not_wellFormed {i : Instr} {s : State} (hh : s.halt = false ∨ ∃ csr, i = .csrRd csr)
    (hw : i.wellFormed s.cfg = false) : exec i s = .next (refuse .badsel s) := by
  have hne : i.wellFormed s.cfg ≠ true := Bool.eq_false_iff.mp hw
  cases i with
  | csrRd csr =>
    change execCsrRd csr s = _
    unfold execCsrRd
    split
    · next r hr => exact absurd (hasCsr_of_selCsr s.cfg (by simp [hr])) hne
    · rfl
  | bqLdc ch st k coef =>
    refine (unlessHalted_of_running (by simpa using hh) _).trans ?_
    split
    · next ch' k' hch hk =>
      split
      · next i hi =>
        refine absurd ?_ hne
        simp only [Instr.wellFormed, ← selCoef_isSome, hk, (hasStage_iff _ ch st).mpr ⟨ch', i, hch, hi⟩]
        rfl
      · rfl
    · rfl
  | bqRds ch st r =>
    refine (unlessHalted_of_running (by simpa using hh) _).trans ?_
    split
    · next ch' r' hch hr =>
      split
      · next i hi =>
        refine absurd ?_ hne
        simp only [Instr.wellFormed, ← selReg_isSome, hr, (hasStage_iff _ ch st).mpr ⟨ch', i, hch, hi⟩]
        rfl
      · rfl
    · rfl
  | bqStep ch st x =>
    refine (unlessHalted_of_running (by simpa using hh) _).trans ?_
    split
    · next ch' hch =>
      split
      · next i hi => exact absurd ((hasStage_iff _ ch st).mpr ⟨ch', i, hch, hi⟩) hne
      · rfl
    · rfl
  | bqChain ch x =>
    simp only [Instr.wellFormed, ← selChan_isSome, Option.isSome_eq_false_iff, Option.isNone_iff_eq_none] at hw
    refine (unlessHalted_of_running (by simpa using hh) _).trans ?_
    simp [hw]
  | rbWr b | rbWrb b | rbRd b | rbRdb b | rbAck b =>
    simp only [Instr.wellFormed, ← selBuf_isSome, Option.isSome_eq_false_iff, Option.isNone_iff_eq_none] at hw
    refine (unlessHalted_of_running (by simpa using hh) _).trans ?_
    simp [hw]
  | rbBegin b tblk tu cb a =>
    refine (unlessHalted_of_running (by simpa using hh) _).trans ?_
    split
    · next i x hi hx =>
      refine absurd ?_ hne
      simp only [Instr.wellFormed, Bool.and_assoc, ← selBuf_isSome, ← selUnit_isSome, hi, hx]
      rfl
    · rfl
  | arbClaim p len =>
    refine (unlessHalted_of_running (by simpa using hh) _).trans ?_
    split
    · next prog hp =>
      split
      · next hl =>
        refine absurd ?_ hne
        simp only [Instr.wellFormed, ← selProg_isSome, hp]
        exact hl
      · rfl
    · rfl
  | seqEn blk u =>
    simp only [Instr.wellFormed, ← selUnit_isSome, Option.isSome_eq_false_iff, Option.isNone_iff_eq_none] at hw
    refine (unlessHalted_of_running (by simpa using hh) _).trans ?_
    simp [hw]
  | alIn | alOut | syncArm => exact absurd rfl hne

/-! ## What a command does not answer -/

/-- The outcome does not answer with status `st`; `NeverAnswers i s st` says it of `exec i s`. -/
def OutcomeNeverAnswers (s : State) (st : Status) (k : Host.Outcome State Fault Refusal) : Prop :=
  ∀ t p v, k = .next t → t.trace ≠ s.trace ++ [⟨p, st, v⟩]

theorem neverAnswers_iff (i : Instr) (s : State) (st : Status) :
    NeverAnswers i s st ↔ OutcomeNeverAnswers s st (exec i s) := Iff.rfl

section
variable {s u : State} {st : Status}

theorem neverAnswers_fault (f : Fault) : OutcomeNeverAnswers s st (.fault f) := by
  intro t p v h
  cases h

theorem neverAnswers_silent (ht : u.trace = s.trace) : OutcomeNeverAnswers s st (.next u) := by
  intro t p v h
  cases h
  simp [ht]

theorem neverAnswers_respondTo {p : Port} {st' : Status} {v : Word} (ht : u.trace = s.trace) (hst : st' ≠ st) :
    OutcomeNeverAnswers s st (.next (respondTo p st' v u)) := by
  intro t q w h
  cases h
  simp [ht, hst]

theorem neverAnswers_refuse {st' : Status} (hst : st' ≠ st) : OutcomeNeverAnswers s st (.next (refuse st' s)) :=
  neverAnswers_respondTo rfl hst

theorem neverAnswers_respondOk {v : Word} (ht : u.trace = s.trace) (hst : Status.ok ≠ st) :
    OutcomeNeverAnswers s st (.next (respondOk v u)) :=
  neverAnswers_respondTo ht hst

theorem neverAnswers_raiseFatal {e : FatalError} {p : Port} (hst : fatalStatus e ≠ st) :
    OutcomeNeverAnswers s st (.next (raiseFatal e p s)) := by
  unfold raiseFatal
  split
  · exact neverAnswers_respondTo rfl hst
  · exact neverAnswers_respondTo rfl hst

theorem neverAnswers_ite {b : Prop} [Decidable b] {k k' : Host.Outcome State Fault Refusal}
    (hk : OutcomeNeverAnswers s st k) (hk' : OutcomeNeverAnswers s st k') :
    OutcomeNeverAnswers s st (if b then k else k') := by
  split
  · exact hk
  · exact hk'

theorem neverAnswers_unlessHalted {k : Host.Outcome State Fault Refusal} (hst : Status.halted ≠ st)
    (hk : OutcomeNeverAnswers s st k) : OutcomeNeverAnswers s st (unlessHalted s k) := by
  unfold unlessHalted
  split
  · exact neverAnswers_refuse hst
  · exact hk

theorem neverAnswers_enqueueRespond {i : Idx} {w : Word} (hst : Status.ok ≠ st) :
    OutcomeNeverAnswers s st (enqueueRespond i w s) := by
  unfold enqueueRespond
  split
  · exact neverAnswers_fault _
  · exact neverAnswers_respondOk rfl hst

theorem neverAnswers_dequeueRespond {i : Idx} (hst : Status.ok ≠ st) :
    OutcomeNeverAnswers s st (dequeueRespond i s) := by
  unfold dequeueRespond
  split
  · exact neverAnswers_fault _
  · exact neverAnswers_respondOk rfl hst

end

/-- A command whose selectors all name something answers with another status than BADSEL. -/
theorem neverAnswers_badsel_of_wellFormed {i : Instr} {s : State} (hc : s.cfg.Valid)
    (hw : i.wellFormed s.cfg = true) : NeverAnswers i s .badsel := by
  rw [neverAnswers_iff]
  cases i with
  | csrRd csr =>
    obtain ⟨r, hr⟩ := Option.isSome_iff_exists.mp (selCsr_of_hasCsr s.cfg hc hw)
    change OutcomeNeverAnswers s .badsel (execCsrRd csr s)
    simp only [execCsrRd, hr]
    exact neverAnswers_respondOk rfl (by decide)
  | bqLdc ch st k coef =>
    refine neverAnswers_unlessHalted (by decide) ?_
    simp only [Instr.wellFormed, ← selCoef_isSome, Bool.and_eq_true, hasStage_iff,
      Option.isSome_iff_exists] at hw
    obtain ⟨⟨ch', i, hch, hi⟩, k', hk⟩ := hw
    simp only [hch, hi, hk]
    exact neverAnswers_ite (neverAnswers_refuse (by decide)) (neverAnswers_respondOk rfl (by decide))
  | bqRds ch st r =>
    refine neverAnswers_unlessHalted (by decide) ?_
    simp only [Instr.wellFormed, ← selReg_isSome, Bool.and_eq_true, hasStage_iff,
      Option.isSome_iff_exists] at hw
    obtain ⟨⟨ch', i, hch, hi⟩, r', hr⟩ := hw
    simp only [hch, hi, hr]
    split
    · exact neverAnswers_respondOk rfl (by decide)
    · exact neverAnswers_refuse (by decide)
  | bqStep ch st x =>
    refine neverAnswers_unlessHalted (by decide) ?_
    obtain ⟨ch', i, hch, hi⟩ := (hasStage_iff s.cfg ch st).mp hw
    simp only [hch, hi]
    exact neverAnswers_ite (neverAnswers_respondOk rfl (by decide)) (neverAnswers_refuse (by decide))
  | bqChain ch x =>
    refine neverAnswers_unlessHalted (by decide) ?_
    simp only [Instr.wellFormed, ← selChan_isSome, Option.isSome_iff_exists] at hw
    obtain ⟨ch', hch⟩ := hw
    simp only [hch]
    exact neverAnswers_ite (neverAnswers_respondOk rfl (by decide)) (neverAnswers_refuse (by decide))
  | alIn | alOut | syncArm =>
    exact neverAnswers_unlessHalted (by decide) (neverAnswers_respondOk rfl (by decide))
  | rbWr b w =>
    obtain ⟨i, hi⟩ := exists_selBuf hw
    refine neverAnswers_unlessHalted (by decide) ?_
    simp only [hi]
    exact neverAnswers_ite (neverAnswers_refuse (by decide)) (neverAnswers_ite (neverAnswers_refuse (by decide))
      (neverAnswers_enqueueRespond (by decide)))
  | rbWrb b w =>
    obtain ⟨i, hi⟩ := exists_selBuf hw
    refine neverAnswers_unlessHalted (by decide) ?_
    simp only [hi]
    exact neverAnswers_ite (neverAnswers_refuse (by decide)) (neverAnswers_ite (neverAnswers_silent rfl)
      (neverAnswers_enqueueRespond (by decide)))
  | rbRd b =>
    obtain ⟨i, hi⟩ := exists_selBuf hw
    refine neverAnswers_unlessHalted (by decide) ?_
    simp only [hi]
    exact neverAnswers_ite (neverAnswers_refuse (by decide)) (neverAnswers_ite (neverAnswers_refuse (by decide))
      (neverAnswers_dequeueRespond (by decide)))
  | rbRdb b =>
    obtain ⟨i, hi⟩ := exists_selBuf hw
    refine neverAnswers_unlessHalted (by decide) ?_
    simp only [hi]
    exact neverAnswers_ite (neverAnswers_refuse (by decide)) (neverAnswers_ite (neverAnswers_silent rfl)
      (neverAnswers_dequeueRespond (by decide)))
  | rbBegin b tblk tu cb a =>
    refine neverAnswers_unlessHalted (by decide) ?_
    simp only [Instr.wellFormed, Bool.and_assoc, ← selBuf_isSome, ← selUnit_isSome, Bool.and_eq_true,
      Option.isSome_iff_exists] at hw
    obtain ⟨⟨i, hi⟩, x, hx⟩ := hw
    simp only [hi, hx]
    exact neverAnswers_ite (neverAnswers_raiseFatal (by decide)) (neverAnswers_respondOk rfl (by decide))
  | rbAck b =>
    obtain ⟨i, hi⟩ := exists_selBuf hw
    refine neverAnswers_unlessHalted (by decide) ?_
    simp only [hi]
    exact neverAnswers_respondOk rfl (by decide)
  | arbClaim p len =>
    refine neverAnswers_unlessHalted (by decide) ?_
    simp only [Instr.wellFormed, ← selProg_isSome, Bool.and_eq_true, Option.isSome_iff_exists] at hw
    obtain ⟨⟨prog, hp⟩, hl⟩ := hw
    simp only [hp, show lenOk s.cfg len = true from hl, if_true]
    exact neverAnswers_ite (neverAnswers_silent rfl) (neverAnswers_ite (neverAnswers_raiseFatal (by decide))
      (neverAnswers_silent rfl))
  | seqEn blk u =>
    refine neverAnswers_unlessHalted (by decide) ?_
    simp only [Instr.wellFormed, ← selUnit_isSome, Option.isSome_iff_exists] at hw
    obtain ⟨x, hx⟩ := hw
    simp only [hx]
    exact neverAnswers_ite (neverAnswers_respondOk rfl (by decide)) (neverAnswers_refuse (by decide))

/-- Settles O7: BADSEL is what a selector that names nothing gives, and no other branch of a command. -/
theorem selectorsOutOfRangeAreBadsel : Obligations.SelectorsOutOfRangeAreBadsel := by
  intro s c i hdecode hh
  rw [executeCommand_of_legal hdecode]
  constructor
  · intro hw
    exact ⟨refuse .badsel s, exec_of_not_wellFormed hh hw, refused_refuse .badsel s⟩
  · intro hc hw
    exact neverAnswers_badsel_of_wellFormed hc hw

end Sys2Proof.Machine
end

section
/-! PROOFS. The coefficients: what BQ.LDC and BQ.RDS do to and read of a stage, that no step writes a coefficient
after arming, and the accumulator bound of AccSafe (40_coefficients.md R123 to R126). -/

namespace Sys2Proof.Machine

/-! ## Writing one coefficient (40_coefficients.md R123) -/

section
variable (g : Stage) (k j : Fin 5) (v : Word)

theorem coef_loadCoef : (loadCoef g k v).coef[j] = if k = j then v else g.coef[j] := by
  simp [loadCoef, Vector.getElem_set, Fin.ext_iff]

theorem cval_loadCoef : (loadCoef g k v).cval[j] = if k = j then true else g.cval[j] := by
  simp [loadCoef, Vector.getElem_set, Fin.ext_iff]

end

/-- Settles O9: the stage after BQ.LDC is `loadCoef` of the stage before, and no other part is written. -/
theorem ldcLoadsOneCoefficient : Obligations.LdcLoadsOneCoefficient := by
  intro s ch st k coef ch' i k' hh ha hch hst hi hk
  have hstage : stageOf (respondOk 0 (setStage s ch' i (loadCoef (stageOf s ch' i) k' coef))) ch' i =
      loadCoef (stageOf s ch' i) k' coef := by
    rw [stageOf_respondOk_other, stageOf_setStage, if_pos ⟨rfl, rfl⟩]
  refine ⟨_, exec_bqLdc hh ha hch hst hi hk coef, answered_respondOk_of 0 (setStage_issuer s ch' i _) rfl,
    onlyChanges_respondOk_of 0 (setStage_issuer s ch' i _) (onlyChanges_setStage s ch' i _), ?_⟩
  rw [hstage]
  refine ⟨?_, ?_, fun j hj => ⟨?_, ?_⟩, rfl, rfl, rfl, rfl, rfl⟩
  · rw [coef_loadCoef, if_pos rfl]
  · rw [cval_loadCoef, if_pos rfl]
  · rw [coef_loadCoef, if_neg hj.symm]
  · rw [cval_loadCoef, if_neg hj.symm]

/-! ## The coefficients after arming (40_coefficients.md R124) -/

/-- BQ.LDC after arming, with selectors that all name something. -/
theorem exec_bqLdc_of_armed {s : State} {ch st : BitVec 4} {k : BitVec 3} (hh : s.halt = false)
    (ha : s.armed = true) (coef : Word) (hw : (Instr.bqLdc ch st k coef).wellFormed s.cfg = true) :
    exec (.bqLdc ch st k coef) s = .next (refuse .badstate s) := by
  simp only [Instr.wellFormed, ← selCoef_isSome, Bool.and_eq_true, hasStage_iff, Option.isSome_iff_exists] at hw
  obtain ⟨⟨ch', i, hch, hi⟩, k', hk⟩ := hw
  refine (unlessHalted_of_running hh _).trans ?_
  simp only [hch, hi, hk, ha, if_true]

/-- The two stages have the same coefficients and valid bits. -/
def SameCoefs (g g' : Stage) : Prop := g'.coef = g.coef ∧ g'.cval = g.cval

/-- Every stage has the same coefficients and valid bits in both states. -/
def CoefsKept (s t : State) : Prop := ∀ ch i, SameCoefs (stageOf s ch i) (stageOf t ch i)

theorem SameCoefs.refl (g : Stage) : SameCoefs g g := ⟨rfl, rfl⟩

theorem SameCoefs.trans {g g' g'' : Stage} (h : SameCoefs g g') (h' : SameCoefs g' g'') : SameCoefs g g'' :=
  ⟨h'.1.trans h.1, h'.2.trans h.2⟩

/-- A sample moves history and remainder only (41_iir_filter.md R137). -/
theorem sameCoefs_stageStep (c : Config) (g : Stage) (x : Word) : SameCoefs g (stageStep c g x).1 := ⟨rfl, rfl⟩

theorem sameCoefs_chainRun (c : Config) (is : List Idx) :
    ∀ (f : Vector Stage 16) (v : Word) (i : Idx), SameCoefs f[i] (chainRun c f is v).1[i] := by
  induction is with
  | nil => exact fun f v i => .refl f[i]
  | cons j rest ih =>
    intro f v i
    refine SameCoefs.trans ?_ (ih _ _ i)
    by_cases hij : j = i
    · subst hij
      simpa using sameCoefs_stageStep c f[j] v
    · have hv : j.val ≠ i.val := fun e => hij (Fin.ext e)
      simpa [hv] using SameCoefs.refl f[i]

theorem coefsKept_setStage {s : State} {ch : Chan} {i : Idx} {g : Stage} (hg : SameCoefs (stageOf s ch i) g) :
    CoefsKept s (setStage s ch i g) := by
  intro ch' i'
  rw [stageOf_setStage]
  split
  · next h => obtain ⟨rfl, rfl⟩ := h; exact hg
  · exact .refl _

theorem coefsKept_setChannel {s : State} {ch : Chan} {f : Vector Stage 16}
    (hf : ∀ i, SameCoefs (stageOf s ch i) f[i]) : CoefsKept s (setChannel s ch f) := by
  intro ch' i'
  rw [stageOf_setChannel]
  split
  · next h => subst h; exact hf i'
  · exact .refl _

/-- A frame without stages keeps the coefficients. -/
theorem OnlyChanges.coefsKept {s t : State} {parts : List Part} (h : OnlyChanges s t parts)
    (hstage : ∀ ch i, Part.stage ch i ∉ parts) : CoefsKept s t := fun ch i => by
  have heq : stageOf t ch i = stageOf s ch i := h _ (hstage ch i)
  rw [heq]
  exact .refl _

/-- Of the commands only BQ.LDC writes a coefficient, and it does so before arming. -/
theorem exec_coefsKept {s t : State} (h : ExecEffect s t) (ha : s.armed = true) : CoefsKept s t := by
  cases h with
  | load hh hunarmed => exact absurd ha (by simp [hunarmed])
  | step hh ch i x hl => exact coefsKept_setStage (sameCoefs_stageStep s.cfg (stageOf s ch i) x)
  | chain hh ch x hl => exact coefsKept_setChannel (sameCoefs_chainRun s.cfg _ (s.filt[ch]) x)
  | deadlock => exact (onlyChanges_raiseFatal s .deadlock s.issuer).coefsKept (by simp)
  | initFailure => exact (onlyChanges_raiseFatal s .transferInitFailure s.issuer).coefsKept (by simp)
  | _ => exact fun ch i => .refl (stageOf s ch i)

theorem event_coefsKept {s t : State} {e : Event} (h : EventEffect s e t) (he : e ≠ .reset)
    (ha : s.armed = true) : CoefsKept s t := by
  cases h with
  | reset => exact absurd rfl he
  | serve p c hc hw t h => exact exec_coefsKept (s := setIssuer p s) h ha
  | scan => exact (onlyChanges_arbScan s).coefsKept (by simp)
  | load => exact (onlyChanges_arbLoad s).coefsKept (by simp)
  | record => exact (onlyChanges_arbRecord s).coefsKept (by simp)
  | _ => exact fun ch i => .refl (stageOf s ch i)

theorem step_coefsKept {s t : State} (h : step s = .next t) (he : (nextEvent s).1 ≠ .reset)
    (ha : s.armed = true) : CoefsKept s t := fun ch i =>
  have hnext := nextEvent_onlyChanges s
  (hnext.coefsKept (by simp) ch i).trans
    (event_coefsKept (step_effect h) he ((hnext .armed (by simp)).trans ha) ch i)

/-- Settles O10: past the start gate BQ.LDC is refused, and no other transition writes a coefficient. -/
theorem coefficientsAreFixedOnceArmed : Obligations.CoefficientsAreFixedOnceArmed := by
  constructor
  · intro s ch st k coef hh ha hw
    exact ⟨refuse .badstate s, exec_bqLdc_of_armed hh ha coef hw, refused_refuse .badstate s⟩
  · intro s t hstep ha he
    exact ⟨step_keeps_armed hstep he ha, step_coefsKept hstep he ha⟩

/-! ## Reading a register of a stage (40_coefficients.md R125) -/

theorem selReg_coef {r : BitVec 4} {k : Fin 5} (h : r.toNat = k.val) : selReg r = some (.coef k) := by
  unfold selReg
  rw [dif_pos (by have := k.isLt; omega)]
  exact congrArg (some ∘ StageReg.coef) (Fin.ext h)

section
variable {s : State} {ch st r : BitVec 4} {ch' : Chan} {i : Idx} {reg : StageReg}
variable (hh : s.halt = false) (hch : ch.toNat = ch'.val) (hst : st.toNat = i.val) (hi : i.val < s.cfg.nSt[ch'])
variable (hr : selReg r = some reg)
include hh hch hst hi hr

/-- BQ.RDS on a stage that exists answers what `readStageReg` says of the register that `r` names. -/
theorem exec_bqRds :
    exec (.bqRds ch st r) s =
      .next ((readStageReg s.cfg (stageOf s ch' i) reg).elim (refuse .badstate s) (respondOk · s)) := by
  refine (unlessHalted_of_running hh _).trans ?_
  simp only [selChan_of hch, selStage_of hst hi, hr]
  cases readStageReg s.cfg (stageOf s ch' i) reg <;> rfl

theorem reads_bqRds {v : Word} (hv : readStageReg s.cfg (stageOf s ch' i) reg = some v) :
    Reads (.bqRds ch st r) s v := by
  have hexec := exec_bqRds hh hch hst hi hr
  rw [hv] at hexec
  exact ⟨_, hexec, answered_respondTo s.issuer .ok v s, onlyChanges_respondTo s.issuer .ok v s⟩

theorem isRefused_bqRds (hv : readStageReg s.cfg (stageOf s ch' i) reg = none) :
    IsRefused (.bqRds ch st r) s .badstate := by
  have hexec := exec_bqRds hh hch hst hi hr
  rw [hv] at hexec
  exact ⟨_, hexec, refused_refuse .badstate s⟩

end

/-- Settles O11: the number picks the register, and only an unloaded coefficient has no value to answer. -/
theorem rdsReadsTheNamedRegister : Obligations.RdsReadsTheNamedRegister := by
  intro s ch st r ch' i hh hch hst hi
  have hreads {reg : StageReg} {v : Word} := reads_bqRds (r := r) (reg := reg) (v := v) hh hch hst hi
  refine ⟨fun k hr => ⟨fun hloaded => ?_, fun hunloaded => ?_⟩, fun hr => ?_, fun hr => ?_, fun hr => ?_,
    fun hr => ?_, fun hr => ?_⟩
  · exact hreads (selReg_coef hr) (if_pos hloaded)
  · exact isRefused_bqRds hh hch hst hi (selReg_coef hr) (if_neg (by simp [hunloaded]))
  · exact hreads (reg := .x1) (by simp [selReg, hr]) rfl
  · refine hreads (reg := .x2) (by simp [selReg, hr]) ?_
    cases hd : s.cfg.depth <;> simp [readStageReg, hd]
  · exact hreads (reg := .y1) (by simp [selReg, hr]) rfl
  · refine hreads (reg := .y2) (by simp [selReg, hr]) ?_
    cases hd : s.cfg.depth <;> simp [readStageReg, hd]
  · exact hreads (reg := .rem) (by simp [selReg, hr]) rfl

/-! ## The accumulator bound (40_coefficients.md R126) -/

theorem abs_toInt_le (x : Word) : |x.toInt| ≤ 2 ^ 31 := by
  have hlo := x.le_toInt
  have hhi := x.toInt_lt
  rw [abs_le]
  constructor <;> omega

/-- A product is at most 2^31 times the coefficient's magnitude, whatever the sample. -/
theorem abs_product_le (c x : Word) : |s32 c * s32 x| ≤ 2 ^ 31 * |s32 c| := by
  rw [abs_mul, mul_comm]
  exact mul_le_mul_of_nonneg_right (abs_toInt_le x) (abs_nonneg _)

/-- The products of the second history registers, which are in no sum when DEPTH = 1. -/
theorem abs_secondProduct_le (d : Depth) (c x : Word) :
    |if d = .two then s32 c * s32 x else 0| ≤ 2 ^ 31 * |s32 c| := by
  split
  · exact abs_product_le c x
  · rw [abs_zero]
    positivity

section
variable (c : Config) (g : Stage) (x : Word)

theorem abs_feedForward_le :
    |feedForward c g x| ≤ (2 : Int) ^ 31 * (|s32 g.coef[0]| + |s32 g.coef[1]| + |s32 g.coef[2]|) := by
  rw [mul_add, mul_add]
  exact (abs_add_three _ _ _).trans (add_le_add (add_le_add (abs_product_le _ _) (abs_product_le _ _))
    (abs_secondProduct_le _ _ _))

theorem abs_feedBack_le : |feedBack c g| ≤ (2 : Int) ^ 31 * (|s32 g.coef[3]| + |s32 g.coef[4]|) := by
  rw [mul_add]
  exact (abs_add_le _ _).trans (add_le_add (abs_product_le _ _) (abs_secondProduct_le _ _ _))

theorem abs_fbSign_mul (sign : FbSign) (z : Int) : |sign.toInt * z| = |z| := by
  cases sign <;> simp [FbSign.toInt]

variable {g} in
/-- AccSafe bounds all products of a step together by 2^31·(2^32 − 1). -/
theorem abs_products_le_of_accSafe (h : AccSafe g) :
    |feedForward c g x + c.fbSign.toInt * feedBack c g| ≤ 2 ^ 63 - 2 ^ 31 := by
  have hcoefs : |s32 g.coef[0]| + |s32 g.coef[1]| + |s32 g.coef[2]| + |s32 g.coef[3]| + |s32 g.coef[4]| ≤
      2 ^ 32 - 1 := by
    simp only [Int.abs_eq_natAbs]
    unfold AccSafe at h
    omega
  calc |feedForward c g x + c.fbSign.toInt * feedBack c g|
      ≤ |feedForward c g x| + |feedBack c g| := by
        rw [← abs_fbSign_mul c.fbSign (feedBack c g)]
        exact abs_add_le _ _
    _ ≤ (2 : Int) ^ 31 * (|s32 g.coef[0]| + |s32 g.coef[1]| + |s32 g.coef[2]|) +
          (2 : Int) ^ 31 * (|s32 g.coef[3]| + |s32 g.coef[4]|) :=
        add_le_add (abs_feedForward_le c g x) (abs_feedBack_le c g)
    _ ≤ 2 ^ 63 - 2 ^ 31 := by linarith only [hcoefs]

variable {g} in
/-- The products leave room for a remainder of up to 30 bits at either end of the accumulator. -/
theorem stageSum_bounds_of_accSafe (hq : c.q ≤ 30) (hrem : g.rem < 2 ^ c.q) (h : AccSafe g) :
    -(2 ^ 63) ≤ stageSum c g x ∧ stageSum c g x ≤ 2 ^ 63 - 1 := by
  have hrem30 : g.rem < 2 ^ 30 := hrem.trans_le (Nat.pow_le_pow_right (by decide) hq)
  obtain ⟨hlo, hhi⟩ := abs_le.mp (abs_products_le_of_accSafe c x h)
  unfold stageSum
  constructor <;> omega

end

/-- Settles O18: the sum of the products and the remainder stay in range, so the accumulator does not wrap. -/
theorem accSafeKeepsTheSumInRange : Obligations.AccSafeKeepsTheSumInRange := by
  constructor
  · intro c x
    calc |c.toInt * x.toInt| ≤ 2 ^ 31 * |c.toInt| := abs_product_le c x
      _ ≤ 2 ^ 31 * 2 ^ 31 := mul_le_mul_of_nonneg_left (abs_toInt_le c) (by positivity)
      _ = 2 ^ 62 := by norm_num
  · intro c g x hq hrem h
    obtain ⟨hlo, hhi⟩ := stageSum_bounds_of_accSafe c x hq hrem h
    exact ⟨hlo, hhi, wrap64_toInt hlo (by omega)⟩

end Sys2Proof.Machine
end

section
/-! PROOFS. The IIR filter: the exact sum of one stage and its split into output and remainder, BQ.STEP and BQ.CHAIN
on loaded and on unloaded stages, identity filters, and the truncation error of a run (41_iir_filter.md R131 to
R143). -/

namespace Sys2Proof.Machine

/-! ## One sample through one stage (41_iir_filter.md R131 to R136) -/

section
variable {c : Config} {g : Stage} {x : Word}

/-- While the sum fits the accumulator, the remainder is its low part (R134). -/
theorem stageStep_rem (hlo : -(2 ^ 63) ≤ stageSum c g x) (hhi : stageSum c g x < 2 ^ 63) :
    ((stageStep c g x).1.rem : Int) = stageSum c g x % 2 ^ c.q := by
  change ((low (accValue (stageSum c g x)) c.q : Nat) : Int) = _
  rw [low_cast, accValue, wrap64_toInt hlo hhi]

/-- While the shifted sum fits a word too, the output is the sum's high part (R136). -/
theorem stageStep_output (hlo : -(2 ^ 63) ≤ stageSum c g x) (hhi : stageSum c g x < 2 ^ 63)
    (hylo : -(2 ^ 31) ≤ asr (stageSum c g x) c.q) (hyhi : asr (stageSum c g x) c.q < 2 ^ 31) :
    (stageStep c g x).2.toInt = asr (stageSum c g x) c.q := by
  change (wrap 32 (asr (accValue (stageSum c g x)) c.q)).toInt = _
  rw [accValue, wrap64_toInt hlo hhi, wrap32_toInt hylo hyhi]

/-- Without overflow, output and remainder together are the exact sum: a step loses nothing (R143 (b)). -/
theorem stageStep_exact (hlo : -(2 ^ 63) ≤ stageSum c g x) (hhi : stageSum c g x < 2 ^ 63)
    (hylo : -(2 ^ 31) ≤ asr (stageSum c g x) c.q) (hyhi : asr (stageSum c g x) c.q < 2 ^ 31) :
    2 ^ c.q * (stageStep c g x).2.toInt + ((stageStep c g x).1.rem : Int) = stageSum c g x := by
  rw [stageStep_rem hlo hhi, stageStep_output hlo hhi hylo hyhi]
  exact Int.mul_ediv_add_emod _ _

end

/-- The weight of the second history registers in the sum: only DEPTH = 2 has them (R131). -/
def secondWeight : Depth → Int
  | .two => 1
  | .one => 0

theorem secondWeight_mul (d : Depth) (z : Int) : secondWeight d * z = if d = .two then z else 0 := by
  cases d <;> simp [secondWeight]

/-- The sum of R131 with DEPTH and FB_SIGN written as factors. -/
theorem stageSum_eq (c : Config) (g : Stage) (x : Word) :
    stageSum c g x = (g.rem : Int) +
      (g.coef[0].toInt * x.toInt + g.coef[1].toInt * g.x1.toInt +
        secondWeight c.depth * (g.coef[2].toInt * g.x2.toInt)) +
      c.fbSign.toInt *
        (g.coef[3].toInt * g.y1.toInt + secondWeight c.depth * (g.coef[4].toInt * g.y2.toInt)) := by
  rw [secondWeight_mul, secondWeight_mul]
  rfl

theorem getElem_setStage (f : Vector Stage 16) (j i : Idx) (g : Stage) :
    (f.set j g)[i] = if j = i then g else f[i] := by
  simp [Vector.getElem_set, Fin.ext_iff]

theorem SameCoefs.loaded_eq {g g' : Stage} (h : SameCoefs g g') : loaded g' = loaded g := by
  rw [loaded, loaded, h.2]

/-- After a sample the second history registers hold the first ones when DEPTH = 2 (R139). -/
theorem stageStep_history_two {c : Config} (hd : c.depth = .two) (g : Stage) (x : Word) :
    (stageStep c g x).1.x2 = g.x1 ∧ (stageStep c g x).1.y2 = g.y1 := ⟨if_pos hd, if_pos hd⟩

/-- With DEPTH = 1 the second history registers stay (R139). -/
theorem stageStep_history_one {c : Config} (hd : c.depth = .one) (g : Stage) (x : Word) :
    (stageStep c g x).1.x2 = g.x2 ∧ (stageStep c g x).1.y2 = g.y2 := by
  have hne : c.depth ≠ .two := by simp [hd]
  exact ⟨if_neg hne, if_neg hne⟩

/-! ## BQ.STEP (41_iir_filter.md R137, R138) -/

theorem loaded_eq_false {g : Stage} {k : Fin 5} (hk : g.cval[k] = false) : loaded g = false := by
  refine Bool.eq_false_iff.mpr fun h => ?_
  rw [(loaded_iff g).mp h k] at hk
  cases hk

/-- The state after BQ.STEP on a loaded stage. -/
def afterStep (s : State) (ch : Chan) (i : Idx) (x : Word) : State :=
  respondOk (stageStep s.cfg (stageOf s ch i) x).2 (setStage s ch i (stageStep s.cfg (stageOf s ch i) x).1)

section
variable (s : State) (ch' : Chan) (i : Idx) (x : Word)

theorem answered_afterStep :
    Answered s (afterStep s ch' i x) s.issuer .ok (stageStep s.cfg (stageOf s ch' i) x).2 :=
  answered_respondOk_of _ (setStage_issuer s ch' i _) (setStage_trace s ch' i _)

theorem onlyChanges_afterStep : OnlyChanges s (afterStep s ch' i x) [.stage ch' i, .slot s.issuer, .trace] :=
  onlyChanges_respondOk_of _ (setStage_issuer s ch' i _) (onlyChanges_setStage s ch' i _)

theorem stageOf_afterStep : stageOf (afterStep s ch' i x) ch' i = (stageStep s.cfg (stageOf s ch' i) x).1 := by
  rw [afterStep, stageOf_respondOk_other, stageOf_setStage, if_pos ⟨rfl, rfl⟩]

theorem coefsKept_afterStep : CoefsKept s (afterStep s ch' i x) :=
  coefsKept_setStage (sameCoefs_stageStep s.cfg (stageOf s ch' i) x)

end

section
variable {s : State} {ch st : BitVec 4} {ch' : Chan} {i : Idx}
variable (hh : s.halt = false) (hch : ch.toNat = ch'.val) (hst : st.toNat = i.val) (hi : i.val < s.cfg.nSt[ch'])
variable (x : Word)
include hh hch hst hi

/-- BQ.STEP on a stage that exists filters the sample or refuses, as the stage is loaded or not. -/
theorem exec_bqStep :
    exec (.bqStep ch st x) s =
      .next (if loaded (stageOf s ch' i) = true then afterStep s ch' i x else refuse .badstate s) := by
  refine (unlessHalted_of_running hh _).trans ?_
  simp only [selChan_of hch, selStage_of hst hi]
  split <;> rfl

theorem exec_bqStep_of_loaded (hl : loaded (stageOf s ch' i) = true) :
    exec (.bqStep ch st x) s = .next (afterStep s ch' i x) := by
  rw [exec_bqStep hh hch hst hi, if_pos hl]

end

/-- Settles O13: the stage after is `stageStep` of the stage before, and `stageSum` is the sum of R131. -/
theorem stepFiltersOneSample : Obligations.StepFiltersOneSample := by
  intro s ch st x ch' i hh hch hst hi hcval g two sum
  have hsum : sum = stageSum s.cfg g x := (stageSum_eq s.cfg g x).symm
  refine ⟨afterStep s ch' i x, (stageStep s.cfg g x).2,
    exec_bqStep_of_loaded hh hch hst hi x ((loaded_iff g).mpr hcval), answered_afterStep s ch' i x,
    onlyChanges_afterStep s ch' i x, ?_⟩
  rw [stageOf_afterStep, hsum]
  exact ⟨rfl, rfl, rfl, rfl, fun hd => stageStep_history_two hd g x, fun hd => stageStep_history_one hd g x,
    fun hlo hhi => ⟨stageStep_rem hlo hhi, stageStep_output hlo hhi⟩⟩

/-! ## BQ.CHAIN (41_iir_filter.md R138, R140, R141) -/

/-- The state after BQ.CHAIN on a channel whose stages are all loaded. -/
def afterChain (s : State) (ch : Chan) (x : Word) : State :=
  respondOk (chainRun s.cfg (s.filt[ch]) (below s.cfg.nSt[ch]) x).2
    (setChannel s ch (chainRun s.cfg (s.filt[ch]) (below s.cfg.nSt[ch]) x).1)

section
variable {s : State} {ch : BitVec 4} {ch' : Chan} (hh : s.halt = false) (hch : ch.toNat = ch'.val) (x : Word)
include hh hch

/-- BQ.CHAIN filters the sample or refuses, as all stages of the channel are loaded or not. -/
theorem exec_bqChain :
    exec (.bqChain ch x) s =
      .next (if chainLoaded s ch' = true then afterChain s ch' x else refuse .badstate s) := by
  refine (unlessHalted_of_running hh _).trans ?_
  simp only [selChan_of hch]
  split <;> rfl

theorem exec_bqChain_of_loaded (hl : chainLoaded s ch' = true) :
    exec (.bqChain ch x) s = .next (afterChain s ch' x) := by
  rw [exec_bqChain hh hch, if_pos hl]

end

/-- Settles O14: the check of the valid bits comes before any stage is written. -/
theorem unloadedStagesRefuse : Obligations.UnloadedStagesRefuse := by
  constructor
  · intro s ch st x ch' i k hh hch hst hi hk
    refine ⟨refuse .badstate s, ?_, refused_refuse .badstate s⟩
    rw [exec_bqStep hh hch hst hi, loaded_eq_false hk, if_neg Bool.false_ne_true]
  · intro s ch x ch' i k hh hch hi hk
    have hunloaded : ¬ chainLoaded s ch' = true := fun h =>
      absurd ((chainLoaded_iff s ch').mp h i hi) (by simp [loaded_eq_false hk])
    refine ⟨refuse .badstate s, ?_, refused_refuse .badstate s⟩
    rw [exec_bqChain hh hch, if_neg hunloaded]

theorem answered_afterChain (s : State) (ch' : Chan) (x : Word) :
    Answered s (afterChain s ch' x) s.issuer .ok (chainRun s.cfg (s.filt[ch']) (below s.cfg.nSt[ch']) x).2 :=
  answered_respondOk_of _ (setChannel_issuer s ch' _) (setChannel_trace s ch' _)

/-- A chain leaves the stages outside its list (R25). -/
theorem getElem_chainRun_of_not_mem (c : Config) {i : Idx} {is : List Idx} (hi : i ∉ is) :
    ∀ (f : Vector Stage 16) (v : Word), (chainRun c f is v).1[i] = f[i] := by
  induction is with
  | nil => exact fun f v => rfl
  | cons j rest ih =>
    intro f v
    rw [List.mem_cons, not_or] at hi
    calc (chainRun c f (j :: rest) v).1[i] = (f.set j (stageStep c f[j] v).1)[i] := ih hi.2 _ _
      _ = f[i] := by rw [getElem_setStage, if_neg (Ne.symm hi.1)]

theorem onlyChanges_setChannel {s : State} {ch : Chan} {f : Vector Stage 16} {is : List Idx}
    (hf : ∀ i ∉ is, f[i] = stageOf s ch i) : OnlyChanges s (setChannel s ch f) (is.map (.stage ch)) := by
  intro part hp
  cases part with
  | stage ch' i =>
    change stageOf (setChannel s ch f) ch' i = stageOf s ch' i
    rw [stageOf_setChannel]
    split
    · next h =>
      subst h
      exact hf i fun hi => hp (List.mem_map_of_mem hi)
    · rfl
  | _ => simp [unchanged]

theorem onlyChanges_afterChain (s : State) (ch' : Chan) (x : Word) :
    OnlyChanges s (afterChain s ch' x) ((below s.cfg.nSt[ch']).map (.stage ch') ++ [.slot s.issuer, .trace]) :=
  onlyChanges_respondOk_of _ (setChannel_issuer s ch' _)
    (onlyChanges_setChannel fun _ hi => getElem_chainRun_of_not_mem s.cfg hi _ x)

/-- Issuing BQ.STEP on a loaded stage hands its response and the registers it leaves to the next one. -/
theorem stepsInTurn_cons {s : State} {ch : BitVec 4} {ch' : Chan} {i : Idx} (hh : s.halt = false)
    (hch : ch.toNat = ch'.val) (hi : i.val < s.cfg.nSt[ch']) (hl : loaded (stageOf s ch' i) = true)
    (rest : List Idx) (x : Word) :
    stepsInTurn ch (i :: rest) x s =
      stepsInTurn ch rest (stageStep s.cfg (stageOf s ch' i) x).2 (afterStep s ch' i x) := by
  have htrace := (answered_afterStep s ch' i x).2
  simp [stepsInTurn, exec_bqStep_of_loaded hh hch (show (BitVec.ofFin i).toNat = i.val from rfl) hi x hl, htrace]

/-- Steps in turn end with the output of the chain and, in the channel, with the stages of the chain. -/
theorem stepsInTurn_eq_chainRun {ch : BitVec 4} {ch' : Chan} (hch : ch.toNat = ch'.val) (is : List Idx) :
    ∀ (s : State) (x : Word), s.halt = false → (∀ i ∈ is, i.val < s.cfg.nSt[ch']) →
      (∀ i ∈ is, loaded (stageOf s ch' i) = true) →
      ∃ u, stepsInTurn ch is x s = some (u, (chainRun s.cfg (s.filt[ch']) is x).2) ∧
        u.filt = s.filt.set ch' (chainRun s.cfg (s.filt[ch']) is x).1 := by
  induction is with
  | nil => exact fun s x _ _ _ => ⟨s, rfl, by simp [chainRun]⟩
  | cons i rest ih =>
    intro s x hh hin hloaded
    rw [List.forall_mem_cons] at hin hloaded
    have hfilt : (afterStep s ch' i x).filt[ch'] = (s.filt[ch']).set i (stageStep s.cfg (stageOf s ch' i) x).1 := by
      simp [afterStep, setStage]
    have hloaded' : ∀ j ∈ rest, loaded (stageOf (afterStep s ch' i x) ch' j) = true := fun j hj => by
      rw [(coefsKept_afterStep s ch' i x ch' j).loaded_eq]
      exact hloaded.2 j hj
    obtain ⟨u, hsteps, hu⟩ := ih (afterStep s ch' i x) (stageStep s.cfg (stageOf s ch' i) x).2 hh hin.2 hloaded'
    rw [hfilt] at hsteps hu
    refine ⟨u, (stepsInTurn_cons hh hch hin.1 hloaded.1 rest x).trans hsteps, hu.trans ?_⟩
    simp [afterStep, setStage, chainRun, stageOf]

/-- An empty chain has the stages and the output it was given (R141). -/
theorem reads_bqChain_of_no_stages {s : State} {ch : BitVec 4} {ch' : Chan} (hh : s.halt = false)
    (hch : ch.toNat = ch'.val) (hn : s.cfg.nSt[ch'] = 0) (x : Word) : Reads (.bqChain ch x) s x := by
  have hbelow : below s.cfg.nSt[ch'] = [] := by rw [hn]; rfl
  have hl : chainLoaded s ch' = true := (chainLoaded_iff s ch').mpr fun i hi => absurd hi (by omega)
  have hanswered := answered_afterChain s ch' x
  have hframe := onlyChanges_afterChain s ch' x
  rw [hbelow] at hanswered hframe
  exact ⟨afterChain s ch' x, exec_bqChain_of_loaded hh hch x hl, hanswered, hframe⟩

/-- Settles O15: by induction on the chain, its output and its stages are those of the steps in turn. -/
theorem chainEqualsStepsInTurn : Obligations.ChainEqualsStepsInTurn := by
  intro s ch x ch' hh hch hcval
  have hloaded : ∀ i : Idx, i.val < s.cfg.nSt[ch'] → loaded (stageOf s ch' i) = true := fun i hi =>
    (loaded_iff _).mpr (hcval i hi)
  obtain ⟨u, hsteps, hu⟩ := stepsInTurn_eq_chainRun hch (below s.cfg.nSt[ch']) s x hh
    (fun i hi => mem_below.mp hi) (fun i hi => hloaded i (mem_below.mp hi))
  refine ⟨afterChain s ch' x, u, _,
    exec_bqChain_of_loaded hh hch x ((chainLoaded_iff s ch').mpr hloaded), hsteps,
    answered_afterChain s ch' x, fun c j => ?_, onlyChanges_afterChain s ch' x,
    fun hn => reads_bqChain_of_no_stages hh hch hn x⟩
  rw [stageOf, stageOf, hu]
  rfl

/-! ## Identity filters (41_iir_filter.md R142) -/

/-- With only b0 set, the products of the sum are one. -/
theorem stageSum_of_gain {c : Config} {g : Stage} {b0 : Word} (hg : g.coef = #v[b0, 0, 0, 0, 0]) (x : Word) :
    stageSum c g x = g.rem + b0.toInt * x.toInt := by
  rw [stageSum_eq, hg]
  simp

/-- The coefficient 2^Q is below 2^31, so it reads the same signed. -/
theorem toInt_identityCoef {q : Nat} (hq : q ≤ 30) : (BitVec.ofNat 32 (2 ^ q)).toInt = 2 ^ q := by
  have hpow : (2 : Nat) ^ q ≤ 2 ^ 30 := Nat.pow_le_pow_right (by decide) hq
  have hnat : (BitVec.ofNat 32 (2 ^ q)).toNat = 2 ^ q := by
    rw [BitVec.toNat_ofNat]
    exact Nat.mod_eq_of_lt (by omega)
  rw [BitVec.toInt_eq_toNat_of_lt (by omega), hnat]
  push_cast
  rfl

section
variable {c : Config} {g : Stage} (hq : c.q ≤ 30) (hg : IdentityStage c g)
include hq hg

theorem stageSum_of_identity (x : Word) : stageSum c g x = g.rem + 2 ^ c.q * x.toInt := by
  rw [stageSum_of_gain hg.1, toInt_identityCoef hq]

variable (hrem : g.rem < 2 ^ c.q) (x : Word)
include hrem

/-- The remainder fills only the bits below the shifted sample, so the sum stays within 2^61. -/
theorem stageSum_bounds_of_identity : -(2 ^ 63) ≤ stageSum c g x ∧ stageSum c g x < 2 ^ 63 := by
  have hpow : (2 : Int) ^ c.q ≤ 2 ^ 30 := pow_le_pow_right₀ (by decide) hq
  have hrem' : (g.rem : Int) < 2 ^ c.q := by exact_mod_cast hrem
  have hproduct : |2 ^ c.q * x.toInt| ≤ 2 ^ 30 * 2 ^ 31 := by
    rw [abs_mul, abs_of_pos (by positivity)]
    exact mul_le_mul hpow (abs_toInt_le x) (abs_nonneg _) (by positivity)
  obtain ⟨hlo, hhi⟩ := abs_le.mp hproduct
  rw [stageSum_of_identity hq hg]
  constructor <;> omega

/-- A sample through an identity stage moves the history only. -/
theorem stageStep_of_identity : stageStep c g x = (shiftHistory c g x x, x) := by
  obtain ⟨hlo, hhi⟩ := stageSum_bounds_of_identity hq hg hrem x
  have hrem' : (g.rem : Int) < 2 ^ c.q := by exact_mod_cast hrem
  have hhigh : asr (stageSum c g x) c.q = x.toInt := by
    rw [asr, stageSum_of_identity hq hg, Int.add_mul_ediv_left _ _ (by positivity),
      Int.ediv_eq_zero_of_lt (by positivity) hrem', zero_add]
  have hlow : stageSum c g x % 2 ^ c.q = g.rem := by
    rw [stageSum_of_identity hq hg, Int.add_mul_emod_self_left, Int.emod_eq_of_lt (by positivity) hrem']
  have houtput : (stageStep c g x).2 = x := by
    apply BitVec.eq_of_toInt_eq
    rw [stageStep_output hlo hhi (hhigh ▸ x.le_toInt) (hhigh ▸ x.toInt_lt), hhigh]
  have hkept : (stageStep c g x).1.rem = g.rem := by
    exact_mod_cast (stageStep_rem hlo hhi).trans hlow
  calc stageStep c g x
      = ({ shiftHistory c g x (stageStep c g x).2 with rem := (stageStep c g x).1.rem }, (stageStep c g x).2) := rfl
    _ = (shiftHistory c g x x, x) := by rw [houtput, hkept]; rfl

end

theorem SameCoefs.identityStage {c : Config} {g g' : Stage} (h : SameCoefs g g') (hg : IdentityStage c g) :
    IdentityStage c g' :=
  ⟨h.1.trans hg.1, h.loaded_eq.trans hg.2⟩

/-- Moving the history of one stage keeps coefficients and remainder of every stage of the channel. -/
theorem set_shiftHistory_keeps (c : Config) (f : Vector Stage 16) (j : Idx) (x y : Word) (i : Idx) :
    SameCoefs f[i] (f.set j (shiftHistory c f[j] x y))[i] ∧
      (f.set j (shiftHistory c f[j] x y))[i].rem = f[i].rem := by
  rw [getElem_setStage]
  split
  · next hij =>
    subst hij
    exact ⟨⟨rfl, rfl⟩, rfl⟩
  · exact ⟨.refl _, rfl⟩

/-- A chain of identity stages answers its input and keeps every remainder. -/
theorem chainRun_of_identity {c : Config} (hq : c.q ≤ 30) (is : List Idx) (x : Word) :
    ∀ f : Vector Stage 16, (∀ i ∈ is, IdentityStage c f[i] ∧ f[i].rem < 2 ^ c.q) →
      (chainRun c f is x).2 = x ∧ ∀ i : Idx, (chainRun c f is x).1[i].rem = f[i].rem := by
  induction is with
  | nil => exact fun f _ => ⟨rfl, fun _ => rfl⟩
  | cons j rest ih =>
    intro f hf
    rw [List.forall_mem_cons] at hf
    obtain ⟨⟨hid, hrem⟩, hrest⟩ := hf
    have hkeeps := set_shiftHistory_keeps c f j x x
    simp only [chainRun, stageStep_of_identity hq hid hrem x]
    obtain ⟨hout, hrems⟩ := ih (f.set j (shiftHistory c f[j] x x)) fun i hi =>
      ⟨(hkeeps i).1.identityStage (hrest i hi).1, (hkeeps i).2.trans_lt (hrest i hi).2⟩
    exact ⟨hout, fun i => (hrems i).trans (hkeeps i).2⟩

/-- Settles O16: the sum of an identity stage is 2^Q·x with the remainder in its low Q bits. -/
theorem identityStagesReturnTheirInput : Obligations.IdentityStagesReturnTheirInput := by
  refine ⟨?_, ?_, ?_⟩
  · intro c g x hc hg hrem
    obtain ⟨⟨-, hq⟩, -⟩ := hc
    exact ⟨stageSum_of_identity hq hg x, stageSum_bounds_of_identity hq hg hrem x⟩
  · intro s ch st x ch' i hc hh hch hst hi hg hrem
    obtain ⟨⟨-, hq⟩, -⟩ := hc
    have hstep := stageStep_of_identity hq hg hrem x
    have hanswered := answered_afterStep s ch' i x
    rw [hstep] at hanswered
    refine ⟨afterStep s ch' i x, exec_bqStep_of_loaded hh hch hst hi x hg.2, hanswered, ?_⟩
    rw [stageOf_afterStep, hstep]
    rfl
  · intro s ch x ch' hc hh hch hid
    obtain ⟨⟨-, hq⟩, -⟩ := hc
    obtain ⟨hout, hrems⟩ := chainRun_of_identity hq (below s.cfg.nSt[ch']) x (s.filt[ch'])
      fun i hi => hid i (mem_below.mp hi)
    have hanswered := answered_afterChain s ch' x
    rw [hout] at hanswered
    refine ⟨afterChain s ch' x,
      exec_bqChain_of_loaded hh hch x ((chainLoaded_iff s ch').mpr fun i hi => (hid i hi).1.2), hanswered,
      fun i => ?_⟩
    rw [afterChain, stageOf_respondOk_other, stageOf_setChannel, if_pos rfl]
    exact hrems i

/-! ## The truncation error (41_iir_filter.md R143) -/

/-- Settles O17: each step carries what its output leaves out in its remainder, and the remainders telescope. -/
theorem truncationErrorIsOnlyDelayed : Obligations.TruncationErrorIsOnlyDelayed := by
  intro c g xs hxs
  induction xs generalizing g with
  | nil => simp [stageRun]
  | cons x rest ih =>
    obtain ⟨⟨hlo, hhi⟩, ⟨hylo, hyhi⟩, hrest⟩ := hxs
    have hfirst : 2 ^ c.q * (stageStep c g x).2.toInt + ((stageStep c g x).1.rem : Int) =
        g.rem + feedForward c g x + c.fbSign.toInt * feedBack c g := stageStep_exact hlo hhi hylo hyhi
    have hafter := ih (stageStep c g x).1 hrest
    simp only [stageRun, List.map_cons, List.sum_cons]
    linarith only [hfirst, hafter]

end Sys2Proof.Machine
end

section
/-! PROOFS. The arbitrator's transitions one by one (42_arbitrator.md R152 to R155): one equation per branch,
what each leaves behind, and from these the whole claim. -/

namespace Sys2Proof.Machine

/-! ## Acceptance (42_arbitrator.md R152) -/

theorem onlyChanges_acceptClaim (s : State) (p : Port) (prog : Idx) (len : BitVec 8) :
    OnlyChanges s (acceptClaim p prog len s) [.lock, .arbiter] := by
  intro part hp
  cases part <;> simp_all [unchanged]

/-- A claim whose operands are in range is decided by the lock alone. -/
theorem exec_arbClaim {s : State} {p : BitVec 4} {len : BitVec 8} {prog : Idx} (hh : s.halt = false)
    (hp : p.toNat = prog.val) (hprog : prog.val < s.cfg.nProg) (hlen : lenOk s.cfg len = true) :
    exec (.arbClaim p len) s =
      if s.lock.held = false then .next (acceptClaim s.issuer prog len s)
      else if s.lock.owner = s.issuer.core then .next (raiseFatal .deadlock s.issuer s)
      else .next s := by
  change execArbClaim p len s = _
  simp only [execArbClaim, unlessHalted_of_running hh, selProg_of hp hprog, hlen, if_true]

theorem raised_raiseFatal {s : State} (hh : s.halt = false) (e : FatalError) (p : Port) :
    Raised e p s (raiseFatal e p s) := by
  obtain ⟨hanswered, -, herror⟩ := raiseFatal_spec e p s hh
  exact ⟨hanswered, herror⟩

/-- Settles O38: the three branches of the acceptance. -/
theorem claimIsAcceptedHeldOrDeadlocked : Obligations.ClaimIsAcceptedHeldOrDeadlocked := by
  intro s p len prog hh hp hprog hlo hhi
  have hexec := exec_arbClaim hh hp hprog (decide_eq_true ⟨hlo, hhi⟩)
  refine ⟨fun hfree => ?_, fun hheld howner => ?_, fun hheld howner => ?_⟩
  · rw [if_pos hfree] at hexec
    exact ⟨_, hexec, onlyChanges_acceptClaim s s.issuer prog len, rfl, rfl, rfl, rfl⟩
  · rw [if_neg (by simp [hheld]), if_pos howner] at hexec
    exact ⟨_, hexec, raised_raiseFatal hh .deadlock s.issuer, onlyChanges_raiseFatal s .deadlock s.issuer⟩
  · rwa [if_neg (by simp [hheld]), if_neg howner] at hexec

/-! ## Which transition a step of the arbitrator is -/

section
variable {s : State} (hh : s.halt = false)
include hh

theorem runEvent_arb_of_scan (hs : s.arbState = .scan) : runEvent .arb s = .next (arbScan s) := by
  simp [runEvent, arbStep, hh, hs]

theorem runEvent_arb_of_load (hs : s.arbState = .load) : runEvent .arb s = .next (arbLoad s) := by
  simp [runEvent, arbStep, hh, hs]

theorem runEvent_arb_of_record (hs : s.arbState = .record) : runEvent .arb s = .next (arbRecord s) := by
  simp [runEvent, arbStep, hh, hs]

/-- What failing a claim leaves (42_arbitrator.md R159). -/
theorem failClaim_spec :
    Raised .resourceExhausted s.arbReq.port s (failClaim s) ∧ (failClaim s).lock.held = false ∧
      (failClaim s).arbState = .idle := by
  have hfail : failClaim s =
      respondTo s.arbReq.port .resourceExhausted 0
        (recordFatal .resourceExhausted s.arbReq.port.core (releaseLock s)) := by
    simp [failClaim, raiseFatal, hh, fatalStatus]
  refine ⟨raised_raiseFatal (s := releaseLock s) hh .resourceExhausted s.arbReq.port, ?_, ?_⟩
  · rw [hfail]; rfl
  · rw [hfail]; rfl

end

/-! ## SCAN (42_arbitrator.md R153) -/

/-- Unit `x` comes before unit `y` in scan order. -/
def ScansBefore (x y : UnitId) : Prop := x.blk < y.blk ∨ (x.blk = y.blk ∧ x.u < y.u)

theorem pairwise_below (n : Nat) : (below n).Pairwise (· < ·) :=
  List.Pairwise.filter _ (by decide)

theorem pairwise_allUnits (c : Config) : (allUnits c).Pairwise ScansBefore := by
  have hblock : ∀ k : Blk, ((below c.u).map fun u => (⟨k, u⟩ : UnitId)).Pairwise ScansBefore := fun k =>
    (pairwise_below c.u).map _ fun _ _ hlt => .inr ⟨rfl, hlt⟩
  refine List.pairwise_append.mpr ⟨hblock 0, hblock 1, fun x hx y hy => ?_⟩
  obtain ⟨_, -, rfl⟩ := List.mem_map.mp hx
  obtain ⟨_, -, rfl⟩ := List.mem_map.mp hy
  exact .inl Fin.zero_lt_one

/-- The unit SCAN finds exists, is FREE, and comes before every other such unit. -/
theorem firstFree_spec {s : State} {x : UnitId} (h : firstFree s = some x) :
    x.u.val < s.cfg.u ∧ unitStateOf s x = .free ∧
      ∀ y : UnitId, y.u.val < s.cfg.u → unitStateOf s y = .free → x = y ∨ ScansBefore x y := by
  obtain ⟨hfree, before, after, hlist, hnot⟩ := List.find?_eq_some_iff_append.mp h
  refine ⟨mem_allUnits.mp (by simp [hlist]), by simpa using hfree, fun y hy hyfree => ?_⟩
  have hmem := mem_allUnits.mpr hy
  have hsorted := pairwise_allUnits s.cfg
  rw [hlist] at hmem hsorted
  rcases List.mem_append.mp hmem with hbefore | hrest
  · exact absurd (hnot y hbefore) (by simp [hyfree])
  · rcases List.mem_cons.mp hrest with rfl | hafter
    · exact .inl rfl
    · obtain ⟨-, hsuffix, -⟩ := List.pairwise_append.mp hsorted
      exact .inr (List.rel_of_pairwise_cons hsuffix hafter)

/-- The first FREE unit is the one SCAN finds. -/
theorem firstFree_of_first {s : State} {x : UnitId} (hx : x.u.val < s.cfg.u) (hfree : unitStateOf s x = .free)
    (hfirst : ∀ y : UnitId, y.u.val < s.cfg.u → unitStateOf s y = .free →
      x.blk < y.blk ∨ (x.blk = y.blk ∧ x.u ≤ y.u)) :
    firstFree s = some x := by
  cases hfind : firstFree s with
  | none => exact absurd hfree ((firstFree_eq_none s).mp hfind x hx)
  | some y =>
    obtain ⟨hy, hyfree, hyfirst⟩ := firstFree_spec hfind
    rcases hyfirst x hx hfree with rfl | hbefore
    · rfl
    · have hxy := hfirst y hy hyfree
      simp only [ScansBefore, Fin.lt_def, Fin.le_def, Fin.ext_iff] at hbefore hxy
      omega

theorem arbScan_of_none {s : State} (h : firstFree s = none) : arbScan s = failClaim s := by
  simp [arbScan, h]

theorem arbScan_of_some {s : State} {x : UnitId} (h : firstFree s = some x) :
    arbScan s = setArb .load ⟨x, s.arbSel.offset⟩ s := by
  simp [arbScan, h]

/-- Settles O39: SCAN takes what the search over the units in scan order finds. -/
theorem scanSelectsTheFirstFreeUnit : Obligations.ScanSelectsTheFirstFreeUnit := by
  intro s _ hh hs
  have hrun := runEvent_arb_of_scan hh hs
  refine ⟨fun hnone => ?_, fun x hx hfree hfirst => ?_⟩
  · rw [arbScan_of_none ((firstFree_eq_none s).mpr hnone)] at hrun
    obtain ⟨hraised, hlock, hidle⟩ := failClaim_spec hh
    exact ⟨_, hrun, hraised, hlock, hidle, onlyChanges_failClaim s⟩
  · rw [arbScan_of_some (firstFree_of_first hx hfree hfirst)] at hrun
    exact ⟨_, hrun, onlyChanges_setArb s _ _, rfl, rfl, rfl⟩

/-! ## LOAD (42_arbitrator.md R154) -/

section
variable {s : State}

theorem arbLoad_of_resident (hv : (entryOf s s.arbSel.unit.blk s.arbReq.p).valid = true) :
    arbLoad s =
      setArb .record ⟨s.arbSel.unit, (entryOf s s.arbSel.unit.blk s.arbReq.p).offset⟩ s := by
  simp [arbLoad, hv]

variable (hv : (entryOf s s.arbSel.unit.blk s.arbReq.p).valid = false)
include hv

theorem arbLoad_of_fits (hm : (blkOf s s.arbSel.unit.blk).imemUsed + s.arbReq.len.toNat ≤ s.cfg.m) :
    arbLoad s =
      setArb .record ⟨s.arbSel.unit, BitVec.ofNat 8 (blkOf s s.arbSel.unit.blk).imemUsed⟩
        (setBlk s s.arbSel.unit.blk (loadProgram (blkOf s s.arbSel.unit.blk) s.arbReq.len)) := by
  simp [arbLoad, hv, hm]

theorem arbLoad_of_no_room (hm : s.cfg.m < (blkOf s s.arbSel.unit.blk).imemUsed + s.arbReq.len.toNat) :
    arbLoad s = failClaim s := by
  simp [arbLoad, hv, Nat.not_le.mpr hm]

end

/-- An address in the instruction memory fits the offset latch (log 23). -/
theorem toNat_offset {c : Config} (hc : c.Valid) {n : Nat} (hn : n ≤ c.m) : (BitVec.ofNat 8 n).toNat = n := by
  obtain ⟨-, -, -, ⟨-, hm⟩, -⟩ := hc
  rw [BitVec.toNat_ofNat]
  exact Nat.mod_eq_of_lt (by omega)

/-- Settles O40: the three branches of LOAD. -/
theorem loadPlacesTheProgramOnce : Obligations.LoadPlacesTheProgramOnce := by
  intro s hc hh hs k e used
  have hrun := runEvent_arb_of_load hh hs
  refine ⟨fun hv => ?_, fun hv hm => ?_, fun hv hm => ?_⟩
  · rw [arbLoad_of_resident hv] at hrun
    exact ⟨_, hrun, onlyChanges_setArb s _ _, rfl, rfl, rfl⟩
  · rw [arbLoad_of_fits hv hm] at hrun
    refine ⟨_, hrun, ((onlyChanges_loadProgram s k s.arbReq.len).trans (onlyChanges_setArb _ _ _)).mono (by simp),
      rfl, rfl, rfl, toNat_offset hc (le_of_add_le_left hm), ?_, ?_⟩
    · simp [blkOf_setBlk, loadProgram, k, used]
    · simp [blkOf_setBlk, loadProgram, k]
  · rw [arbLoad_of_no_room hv hm] at hrun
    obtain ⟨hraised, hlock, hidle⟩ := failClaim_spec hh
    exact ⟨_, hrun, hraised, hlock, hidle, onlyChanges_failClaim s⟩

/-! ## RECORD (42_arbitrator.md R155) -/

/-- The tables that RECORD leaves: one entry is new, unless it was there. -/
theorem entryOf_recordBlock (s : State) (x : UnitId) (p q : Idx) (offset len : BitVec 8) (k : Blk) :
    entryOf (setBlk s x.blk (recordBlock (blkOf s x.blk) p x.u offset len)) k q =
      if x.blk = k ∧ p = q then recordEntry (entryOf s k q) offset len else entryOf s k q := by
  simp only [entryOf, blkOf_setBlk, recordBlock]
  by_cases hk : x.blk = k
  · subst hk
    by_cases hq : p = q
    · subst hq; simp
    · have hv : p.val ≠ q.val := fun e => hq (Fin.ext e)
      simp [hq, hv]
  · simp [hk]

theorem entryOf_arbRecord (s : State) (k : Blk) (q : Idx) :
    entryOf (arbRecord s) k q =
      if s.arbSel.unit.blk = k ∧ s.arbReq.p = q then recordEntry (entryOf s k q) s.arbSel.offset s.arbReq.len
      else entryOf s k q :=
  entryOf_recordBlock s s.arbSel.unit s.arbReq.p q s.arbSel.offset s.arbReq.len k

theorem unitStateOf_arbRecord (s : State) (y : UnitId) :
    unitStateOf (arbRecord s) y = if s.arbSel.unit = y then .claimed else unitStateOf s y :=
  unitStateOf_recordBlock s s.arbSel.unit y s.arbReq.p s.arbSel.offset s.arbReq.len

theorem recordEntry_of_valid {e : TableEntry} (h : e.valid = true) (offset len : BitVec 8) :
    recordEntry e offset len = e := by
  simp [recordEntry, h]

theorem recordEntry_of_not_valid {e : TableEntry} (h : e.valid = false) (offset len : BitVec 8) :
    recordEntry e offset len = ⟨true, offset, len⟩ := by
  simp [recordEntry, h]

/-- The fields of a claim's answer do not overlap (30_encoding.md R104). -/
theorem toNat_packClaim (sel : ArbSel) :
    (packClaim sel).toNat = sel.unit.blk.val * 2 ^ 20 + sel.unit.u.val * 2 ^ 16 + sel.offset.toNat := by
  have hblk := sel.unit.blk.isLt
  have hu := sel.unit.u.isLt
  have hoffset := sel.offset.isLt
  simp only [packClaim, packWordOf, packField, List.sum_cons, List.sum_nil, BitVec.toNat_ofNat]
  omega

/-- Settles O41: RECORD writes the entry and the unit, releases the lock and answers. -/
theorem recordGrantsTheClaim : Obligations.RecordGrantsTheClaim := by
  intro s hh hs x e
  have hentry := entryOf_arbRecord s x.blk s.arbReq.p
  rw [if_pos ⟨rfl, rfl⟩] at hentry
  refine ⟨arbRecord s, packClaim s.arbSel, runEvent_arb_of_record hh hs, answered_respondTo _ _ _ _,
    toNat_packClaim s.arbSel, onlyChanges_arbRecord s, ?_, fun hv => ?_, fun hv => ?_, rfl, rfl, rfl, rfl⟩
  · rw [unitStateOf_arbRecord, if_pos rfl]
  · rw [hentry, recordEntry_of_valid hv]
  · rw [hentry, recordEntry_of_not_valid hv]

/-! ## The whole claim (42_arbitrator.md R151, R156) -/

/-- LOAD of a program that is resident or fits: the claim goes on to RECORD, and the offset found is the resident
program's. -/
theorem load_proceeds {s : State} (hc : s.cfg.Valid) (hh : s.halt = false) (hs : s.arbState = .load)
    (hroom : (entryOf s s.arbSel.unit.blk s.arbReq.p).valid = true ∨
      (blkOf s s.arbSel.unit.blk).imemUsed + s.arbReq.len.toNat ≤ s.cfg.m) :
    ∃ t, runEvent .arb s = .next t ∧ OnlyChanges s t [.arbiter, .occupancy s.arbSel.unit.blk] ∧
      t.arbState = .record ∧ t.arbReq = s.arbReq ∧ t.arbSel.unit = s.arbSel.unit ∧
      ((entryOf s s.arbSel.unit.blk s.arbReq.p).valid = true →
        t.arbSel.offset = (entryOf s s.arbSel.unit.blk s.arbReq.p).offset) := by
  obtain ⟨hresident, hfits, -⟩ := loadPlacesTheProgramOnce s hc hh hs
  cases hv : (entryOf s s.arbSel.unit.blk s.arbReq.p).valid with
  | true =>
    obtain ⟨t, hrun, hframe, hstate, hreq, hsel⟩ := hresident hv
    exact ⟨t, hrun, hframe.mono (by simp), hstate, hreq, by rw [hsel], fun _ => by rw [hsel]⟩
  | false =>
    obtain ⟨t, hrun, hframe, hstate, hreq, hunit, -⟩ := hfits hv (hroom.resolve_left (by simp [hv]))
    exact ⟨t, hrun, hframe, hstate, hreq, hunit, fun h => by simp at h⟩

/-- RECORD where the offset latched is that of a resident program: the entry it leaves is valid and the answer
carries unit and offset. -/
theorem record_grants {s : State} (hh : s.halt = false) (hs : s.arbState = .record)
    (hoffset : (entryOf s s.arbSel.unit.blk s.arbReq.p).valid = true →
      s.arbSel.offset = (entryOf s s.arbSel.unit.blk s.arbReq.p).offset) :
    ∃ t v, runEvent .arb s = .next t ∧ Answered s t s.arbReq.port .ok v ∧
      v.toNat = s.arbSel.unit.blk.val * 2 ^ 20 + s.arbSel.unit.u.val * 2 ^ 16 +
        (entryOf t s.arbSel.unit.blk s.arbReq.p).offset.toNat ∧
      (entryOf t s.arbSel.unit.blk s.arbReq.p).valid = true ∧ unitStateOf t s.arbSel.unit = .claimed ∧
      t.lock.held = false ∧ t.arbState = .idle ∧
      OnlyChanges s t [.entry s.arbSel.unit.blk s.arbReq.p, .unit s.arbSel.unit, .lock, .arbiter,
        .slot s.arbReq.port, .trace] := by
  obtain ⟨t, v, hrun, hanswered, hvalue, hframe, hclaimed, hkept, hnew, hlock, hidle, -⟩ :=
    recordGrantsTheClaim s hh hs
  have hentry : (entryOf t s.arbSel.unit.blk s.arbReq.p).valid = true ∧
      (entryOf t s.arbSel.unit.blk s.arbReq.p).offset = s.arbSel.offset := by
    cases hv : (entryOf s s.arbSel.unit.blk s.arbReq.p).valid with
    | true => rw [hkept hv]; exact ⟨hv, (hoffset hv).symm⟩
    | false => rw [hnew hv]; exact ⟨rfl, rfl⟩
  obtain ⟨hvalid, hsame⟩ := hentry
  exact ⟨t, v, hrun, hanswered, by rw [hsame]; exact hvalue, hvalid, hclaimed, hlock, hidle, hframe⟩

/-- The three fields of the word that a claim is answered with (30_encoding.md R104). -/
theorem claim_fields {v : Word} {x : UnitId} {offset : BitVec 8}
    (h : v.toNat = x.blk.val * 2 ^ 20 + x.u.val * 2 ^ 16 + offset.toNat) :
    v.extractLsb' 20 4 = BitVec.ofNat 4 x.blk.val ∧ v.extractLsb' 16 4 = BitVec.ofFin x.u ∧
      v.extractLsb' 0 8 = offset := by
  have hblk := x.blk.isLt
  have hu := x.u.isLt
  have hoffset := offset.isLt
  refine ⟨?_, ?_, ?_⟩ <;> apply BitVec.eq_of_toNat_eq <;>
    simp only [BitVec.extractLsb'_toNat, BitVec.toNat_ofNat, BitVec.toNat_ofFin, Nat.shiftRight_eq_div_pow, h] <;>
    omega

/-- Acceptance and SCAN: the claim of a free lock comes to LOAD with the first FREE unit, and only the lock and the
arbitrator have changed. -/
theorem claim_reaches_load {s : State} {p : BitVec 4} {len : BitVec 8} {prog : Idx} {x : UnitId}
    (hc : s.cfg.Valid) (hh : s.halt = false) (hp : p.toNat = prog.val) (hprog : prog.val < s.cfg.nProg)
    (hlo : 1 ≤ len.toNat) (hhi : len.toNat ≤ s.cfg.m) (hlock : s.lock.held = false) (hx : x.u.val < s.cfg.u)
    (hfree : unitStateOf s x = .free)
    (hfirst : ∀ y : UnitId, y.u.val < s.cfg.u → unitStateOf s y = .free →
      x.blk < y.blk ∨ (x.blk = y.blk ∧ x.u ≤ y.u)) :
    ∃ t1 t2, exec (.arbClaim p len) s = .next t1 ∧ runEvent .arb t1 = .next t2 ∧
      OnlyChanges s t2 [.lock, .arbiter] ∧ t2.arbState = .load ∧ t2.arbReq = ⟨s.issuer, prog, len⟩ ∧
      t2.arbSel.unit = x := by
  obtain ⟨haccept, -⟩ := claimIsAcceptedHeldOrDeadlocked s p len prog hh hp hprog hlo hhi
  obtain ⟨t1, hexec, hframe1, -, hstate1, hreq1, -⟩ := haccept hlock
  have hunits : ∀ y, unitStateOf t1 y = unitStateOf s y := fun y => hframe1 (.unit y) (by simp)
  have hcfg : t1.cfg = s.cfg := hframe1 .config (by simp)
  have hhalt : t1.halt = false := (hframe1 .error (by simp)).1.trans hh
  obtain ⟨-, -, ⟨-, hu⟩, -⟩ := hc
  obtain ⟨-, hselect⟩ := scanSelectsTheFirstFreeUnit t1 (by rwa [hcfg]) hhalt hstate1
  simp only [hunits, hcfg] at hselect
  obtain ⟨t2, hscan, hframe2, hstate2, hreq2, hsel2⟩ := hselect x hx hfree hfirst
  exact ⟨t1, t2, hexec, hscan, (hframe1.trans hframe2).mono (by simp), hstate2, hreq2.trans hreq1, by rw [hsel2]⟩

/-- Settles O42: the acceptance, SCAN, LOAD and RECORD in turn; what one leaves alone the next finds as it was. -/
theorem claimIsGrantedInThreeSteps : Obligations.ClaimIsGrantedInThreeSteps := by
  intro s p len prog x hc hh hp hprog hlo hhi hlock hx hfree hfirst hroom
  obtain ⟨t1, t2, hexec, hscan, hframe2, hstate2, hreq2, hunit2⟩ :=
    claim_reaches_load hc hh hp hprog hlo hhi hlock hx hfree hfirst
  have hcfg2 : t2.cfg = s.cfg := hframe2 .config (by simp)
  have hhalt2 : t2.halt = false := (hframe2 .error (by simp)).1.trans hh
  have hentry2 : entryOf t2 x.blk prog = entryOf s x.blk prog := hframe2 (.entry x.blk prog) (by simp)
  obtain ⟨hused2, -⟩ := hframe2 (.occupancy x.blk) (by simp)
  obtain ⟨t3, hload, hframe3, hstate3, hreq3, hunit3, hoffset3⟩ :=
    load_proceeds (by rwa [hcfg2]) hhalt2 hstate2 (by simpa only [hunit2, hreq2, hentry2, hused2, hcfg2])
  simp only [hunit2, hreq2, hentry2] at hframe3 hreq3 hunit3 hoffset3
  have hframe := hframe2.trans hframe3
  have hhalt3 : t3.halt = false := (hframe .error (by simp)).1.trans hh
  have hentry3 : entryOf t3 x.blk prog = entryOf s x.blk prog := hframe (.entry x.blk prog) (by simp)
  have htrace3 : t3.trace = s.trace := hframe .trace (by simp)
  obtain ⟨t, v, hrecord, ⟨hslot, htrace⟩, hvalue, hvalid, hclaimed, hfreed, hidle, hframe4⟩ :=
    record_grants hhalt3 hstate3 (by simpa only [hunit3, hreq3, hentry3])
  simp only [hunit3, hreq3, htrace3] at hslot htrace hvalue hvalid hclaimed hframe4
  obtain ⟨hblk, hu, hoffset⟩ := claim_fields hvalue
  exact ⟨t1, t2, t3, t, v, hexec, hscan, hload, hrecord, ⟨hslot, htrace⟩, hblk, hu, hoffset, hvalid, hclaimed,
    hfreed, hidle, (hframe.trans hframe4).mono (by simp)⟩

end Sys2Proof.Machine
end

section
/-! PROOFS. The arbitrator's invariant under every step: what each transition does to the occupancy of a block, and
which transitions reach a claim in progress (42_arbitrator.md R156, R158). -/

namespace Sys2Proof.Machine

/-! ## Sums over the table of a block -/

/-- A sum over the sixteen entries of which one grows. -/
theorem sum_allIdx_of_grows_at {f g : Idx → Nat} {p : Idx} {n : Nat} (h : ∀ q, g q = f q + if q = p then n else 0) :
    (allIdx.map g).sum = (allIdx.map f).sum + n := by
  have hall : allIdx = List.finRange 16 := by decide
  rw [hall, ← Fin.sum_univ_def, ← Fin.sum_univ_def, Finset.sum_congr rfl fun q _ => h q, Finset.sum_add_distrib]
  simp

theorem length_filter_eq_sum {α : Type} (P : α → Bool) (l : List α) :
    (l.filter P).length = (l.map fun a => if P a then 1 else 0).sum := by
  induction l with
  | nil => rfl
  | cons a l ih => cases h : P a <;> simp [h, ih, Nat.add_comm]

/-! ## The words reserved for a program not yet recorded -/

section
variable {s : State} {k : Blk}

theorem pendingLen_of_not_record (h : s.arbState ≠ .record) : pendingLen s k = 0 := by
  simp [pendingLen, h]

theorem pendingLen_of_other_block (h : s.arbSel.unit.blk ≠ k) : pendingLen s k = 0 := by
  simp [pendingLen, h]

theorem pendingLen_of_resident (h : (entryOf s k s.arbReq.p).valid = true) : pendingLen s k = 0 := by
  simp [pendingLen, h]

theorem pendingLen_of_record (hs : s.arbState = .record) (hk : s.arbSel.unit.blk = k)
    (hv : (entryOf s k s.arbReq.p).valid = false) : pendingLen s k = s.arbReq.len.toNat := by
  simp [pendingLen, hs, hk, hv]

end

/-! ## The occupancy of one block -/

section
variable {s t : State} {k : Blk}

theorem BlockInv.of_same (hi : BlockInv s k) (hcfg : t.cfg = s.cfg) (hentry : ∀ p, entryOf t k p = entryOf s k p)
    (hocc : unchanged s t (.occupancy k)) (hpending : pendingLen t k = pendingLen s k) : BlockInv t k := by
  obtain ⟨hused, hloads⟩ := hocc
  simpa only [BlockInv, residentLen, hentry, hused, hloads, hpending, hcfg] using hi

/-- A frame without the block's table and occupancy keeps its invariant. -/
theorem BlockInv.of_onlyChanges {parts : List Part} (hi : BlockInv s k) (h : OnlyChanges s t parts)
    (hpending : pendingLen t k = pendingLen s k) (hocc : Part.occupancy k ∉ parts := by simp)
    (hcfg : Part.config ∉ parts := by simp) (hentry : ∀ p, Part.entry k p ∉ parts := by simp) : BlockInv t k :=
  hi.of_same (h _ hcfg) (fun p => h _ (hentry p)) (h _ hocc) hpending

/-- LOAD of a new program: the words are occupied and reserved, and one more load is counted. -/
theorem BlockInv.place (hi : BlockInv s k) {len : BitVec 8} (hcfg : t.cfg = s.cfg)
    (hentry : ∀ p, entryOf t k p = entryOf s k p) (hbefore : pendingLen s k = 0)
    (hafter : pendingLen t k = len.toNat) (hlen : 1 ≤ len.toNat)
    (hused : (blkOf t k).imemUsed = (blkOf s k).imemUsed + len.toNat)
    (hroom : (blkOf s k).imemUsed + len.toNat ≤ s.cfg.m)
    (hloads : (blkOf t k).loadCount = (blkOf s k).loadCount + 1) : BlockInv t k := by
  obtain ⟨hsum, -, hplaces, hdisjoint, hcount⟩ := hi
  have hfew : (allIdx.filter fun p => (entryOf s k p).valid).length ≤ 16 := List.length_filter_le _ _
  simp only [hbefore, add_zero, if_true] at hsum hplaces hcount
  simp only [BlockInv, residentLen, hentry, hused, hafter, hloads, hcfg]
  refine ⟨by rw [← hsum]; rfl, hroom, fun p hv => ?_, hdisjoint, ?_⟩
  · obtain ⟨hp, hpos, hplace⟩ := hplaces p hv
    exact ⟨hp, hpos, by omega⟩
  · rw [if_neg (by omega), ← hcount, BitVec.toNat_add]
    exact Nat.mod_eq_of_lt (by simp; omega)

/-- From `s` to `t` the table of block `k` gains entry `e` for program `p`, which had none. -/
structure EntryAdded (s t : State) (k : Blk) (p : Idx) (e : TableEntry) : Prop where
  absent : (entryOf s k p).valid = false
  added : entryOf t k p = e
  others : ∀ q, p ≠ q → entryOf t k q = entryOf s k q

theorem EntryAdded.sum_eq {p : Idx} {e : TableEntry} (h : EntryAdded s t k p e) (hv : e.valid = true)
    (f : TableEntry → Nat) :
    (allIdx.map fun q => if (entryOf t k q).valid then f (entryOf t k q) else 0).sum =
      (allIdx.map fun q => if (entryOf s k q).valid then f (entryOf s k q) else 0).sum + f e := by
  refine sum_allIdx_of_grows_at (p := p) fun q => ?_
  by_cases hq : p = q
  · subst hq
    simp [h.added, h.absent, hv]
  · simp [h.others q hq, Ne.symm hq]

theorem EntryAdded.residentLen_eq {p : Idx} {e : TableEntry} (h : EntryAdded s t k p e) (hv : e.valid = true) :
    residentLen t k = residentLen s k + e.len.toNat :=
  h.sum_eq hv fun e => e.len.toNat

theorem EntryAdded.count_eq {p : Idx} {e : TableEntry} (h : EntryAdded s t k p e) (hv : e.valid = true) :
    (allIdx.filter fun q => (entryOf t k q).valid).length =
      (allIdx.filter fun q => (entryOf s k q).valid).length + 1 := by
  rw [length_filter_eq_sum, length_filter_eq_sum]
  exact h.sum_eq hv fun _ => 1

/-- An entry of the new table is the new one or an old one. -/
theorem EntryAdded.new_or_old {p q : Idx} {e : TableEntry} (h : EntryAdded s t k p e)
    (hv : (entryOf t k q).valid = true) :
    (p = q ∧ entryOf t k q = e) ∨ ((entryOf s k q).valid = true ∧ entryOf t k q = entryOf s k q) := by
  by_cases hq : p = q
  · exact .inl ⟨hq, by rw [← hq, h.added]⟩
  · rw [h.others q hq] at hv
    exact .inr ⟨hv, h.others q hq⟩

/-- RECORD of a new program: the entry takes over the words that were reserved for it, which lie behind every
other program's. -/
theorem BlockInv.record (hi : BlockInv s k) {p : Idx} {offset len : BitVec 8}
    (h : EntryAdded s t k p ⟨true, offset, len⟩) (hcfg : t.cfg = s.cfg) (hocc : unchanged s t (.occupancy k))
    (hbefore : pendingLen s k = len.toNat) (hafter : pendingLen t k = 0) (hp : p.val < s.cfg.nProg)
    (hlen : 1 ≤ len.toNat) (hplace : offset.toNat + len.toNat = (blkOf s k).imemUsed) : BlockInv t k := by
  obtain ⟨hused, hloads⟩ := hocc
  obtain ⟨hsum, hm, hplaces, hdisjoint, hcount⟩ := hi
  have hbehind : ∀ q, (entryOf s k q).valid = true →
      (entryOf s k q).offset.toNat + (entryOf s k q).len.toNat ≤ offset.toNat := fun q hv => by
    obtain ⟨-, -, hq⟩ := hplaces q hv
    omega
  rw [if_neg (by omega)] at hcount
  simp only [BlockInv, hafter, h.residentLen_eq rfl, h.count_eq rfl, hused, hloads, hcfg]
  refine ⟨by omega, hm, fun q hv => ?_, fun q r hqr hvq hvr => ?_, hcount⟩
  · rcases h.new_or_old hv with ⟨rfl, he⟩ | ⟨hold, he⟩ <;> rw [he]
    · exact ⟨hp, hlen, hplace.le⟩
    · obtain ⟨hlt, hpos, hq⟩ := hplaces q hold
      exact ⟨hlt, hpos, by omega⟩
  · rcases h.new_or_old hvq with ⟨rfl, heq⟩ | ⟨holdq, heq⟩ <;>
      rcases h.new_or_old hvr with ⟨hpr, her⟩ | ⟨holdr, her⟩ <;> rw [heq, her]
    · exact absurd hpr hqr
    · exact .inr (hbehind r holdr)
    · exact .inl (hbehind q holdq)
    · exact hdisjoint q r hqr holdq holdr

end

/-! ## Transitions that leave the claim alone -/

/-- From `s` to `t` the lock, the claim in progress and the tables of resident programs are the same. -/
structure SameClaims (s t : State) : Prop where
  config : t.cfg = s.cfg
  lock : t.lock = s.lock
  arbiter : unchanged s t .arbiter
  entry : ∀ k p, entryOf t k p = entryOf s k p
  occupancy : ∀ k, unchanged s t (.occupancy k)

theorem OnlyChanges.sameClaims {s t : State} {parts : List Part} (h : OnlyChanges s t parts)
    (hcfg : Part.config ∉ parts := by simp) (hlock : Part.lock ∉ parts := by simp)
    (harb : Part.arbiter ∉ parts := by simp) (hentry : ∀ k p, Part.entry k p ∉ parts := by simp)
    (hocc : ∀ k, Part.occupancy k ∉ parts := by simp) : SameClaims s t :=
  ⟨h _ hcfg, h _ hlock, h _ harb, fun k p => h _ (hentry k p), fun k => h _ (hocc k)⟩

/-- The invariant is kept where the claim stays, no FREE unit is taken, and the claim's command is not answered
but by entering HALT. -/
theorem ArbInv.of_sameClaims {s t : State} (hi : ArbInv s) (h : SameClaims s t)
    (hfree : ∀ x, unitStateOf s x = .free → unitStateOf t x = .free)
    (hhalt : t.halt = false → s.halt = false)
    (hslot : s.arbState ≠ .idle → s.halt = false → slotOf s s.arbReq.port ≠ none → slotOf t s.arbReq.port ≠ none) :
    ArbInv t := by
  obtain ⟨hstate, hreq, hsel⟩ := h.arbiter
  obtain ⟨hc, hheld, howner, hoperands, houtstanding, hunit, hoffset, hblocks⟩ := hi
  have hused : ∀ k, (blkOf t k).imemUsed = (blkOf s k).imemUsed := fun k => (h.occupancy k).1
  have hpending : ∀ k, pendingLen t k = pendingLen s k := fun k => by
    simp only [pendingLen, hstate, hreq, hsel, h.entry]
  refine ⟨by rwa [h.config], by rwa [h.lock, hstate], by rwa [h.lock, hreq], by rwa [hstate, hreq, h.config],
    fun hbusy hh => ?_, fun hlatched => ?_, by rwa [hstate, hreq, hsel, h.entry, hused],
    fun k => (hblocks k).of_same h.config (h.entry k) (h.occupancy k) (hpending k)⟩
  · rw [hstate] at hbusy
    rw [hreq]
    exact hslot hbusy (hhalt hh) (houtstanding hbusy (hhalt hh))
  · rw [hstate] at hlatched
    rw [hsel, h.config]
    obtain ⟨hfree', hu⟩ := hunit hlatched
    exact ⟨hfree _ hfree', hu⟩

/-- While the arbitrator is in IDLE only the lock and the blocks are constrained. -/
theorem arbInv_of_idle {t : State} (hc : t.cfg.Valid) (hidle : t.arbState = .idle) (hlock : t.lock.held = false)
    (hblocks : ∀ k, BlockInv t k) : ArbInv t := by
  refine ⟨hc, ?_, ?_, ?_, ?_, ?_, ?_, hblocks⟩ <;> simp [hidle, hlock]

/-! ## Commands -/

/-- A command leaves lock, claim and tables alone, unless it is a claim that is accepted. -/
theorem exec_sameClaims_or_accepts {s t : State} (h : ExecEffect s t) :
    SameClaims s t ∨ ∃ (prog : Idx) (len : BitVec 8), prog.val < s.cfg.nProg ∧ lenOk s.cfg len = true ∧
      s.lock.held = false ∧ t = acceptClaim s.issuer prog len s := by
  cases h with
  | accept hh prog hp len hl hk => exact .inr ⟨prog, len, hp, hl, hk, rfl⟩
  | deadlock | initFailure =>
    exact .inl (onlyChanges_raiseFatal s _ _).sameClaims
  | enable hh x hx hc =>
    have hframe := onlyChanges_respondOk_of 0 (setUnit_issuer s x .waiting) (onlyChanges_setUnit s x .waiting)
    exact .inl hframe.sameClaims
  | arm hh => exact .inl ⟨rfl, rfl, ⟨rfl, rfl, rfl⟩, entryOf_startAll s, occupancy_startAll s⟩
  | _ => exact .inl ⟨rfl, rfl, ⟨rfl, rfl, rfl⟩, fun _ _ => rfl, fun _ => ⟨rfl, rfl⟩⟩

/-- A command executed for slot `p` touches no other slot. -/
theorem exec_keeps_other_slots {s t : State} {p q : Port} (h : ExecEffect (setIssuer p s) t) (hpq : p ≠ q) :
    slotOf t q = slotOf s q := by
  have hrespond : ∀ u st v, slotOf (respondTo p st v u) q = slotOf u q := fun u st v => by
    rw [slotOf_respondTo, if_neg hpq]
  cases h with
  | held | accept => rfl
  | deadlock | initFailure => exact onlyChanges_raiseFatal (setIssuer p s) _ p (.slot q) (by simpa using hpq.symm)
  | _ => exact hrespond _ _ _

/-- No command leaves HALT. -/
theorem exec_keeps_halt {s t : State} (h : ExecEffect s t) (ht : t.halt = false) : s.halt = false := by
  cases h with
  | deadlock hh | initFailure hh => exact hh
  | _ => exact ht

/-- No command takes a FREE unit: SEQ.EN and SYNC.ARM move units that are claimed already. -/
theorem exec_keeps_free {s t : State} (h : ExecEffect s t) {x : UnitId} (hx : unitStateOf s x = .free) :
    unitStateOf t x = .free := by
  cases exec_unitEffect h s.issuer x with
  | same _ _ hsame => rw [hsame, hx]
  | enable _ hold => simp [hx] at hold
  | arm _ hold => simp [hx] at hold

theorem claimInProgress_iff (s : State) (p : Port) :
    claimInProgress s p = true ↔ s.arbState ≠ .idle ∧ s.arbReq.port = p := by
  simp [claimInProgress]

section
variable {s : State} (hi : ArbInv s)
include hi

/-- Acceptance: the lock was free, so no claim was in progress, and the new one is latched (42_arbitrator.md
R152). -/
theorem ArbInv.accept {p : Port} {prog : Idx} {len : BitVec 8} (hp : slotOf s p ≠ none)
    (hprog : prog.val < s.cfg.nProg) (hlen : lenOk s.cfg len = true) (hfree : s.lock.held = false) :
    ArbInv (acceptClaim p prog len s) := by
  obtain ⟨hc, hheld, -, -, -, -, -, hblocks⟩ := hi
  have hidle : s.arbState = .idle := by simpa [hfree] using hheld
  obtain ⟨hlo, hhi⟩ := of_decide_eq_true hlen
  refine ⟨hc, by simp, fun _ => rfl, fun _ => ⟨hprog, hlo, hhi⟩, fun _ _ => hp, by simp, by simp, fun k => ?_⟩
  refine (hblocks k).of_onlyChanges (onlyChanges_acceptClaim s p prog len) ?_
  rw [pendingLen_of_not_record (by simp), pendingLen_of_not_record (by simp [hidle])]

theorem ArbInv.exec {t : State} {p : Port} (hp : slotOf s p ≠ none)
    (hw : claimInProgress s p = false ∨ s.halt = true) (h : ExecEffect (setIssuer p s) t) : ArbInv t := by
  rcases exec_sameClaims_or_accepts h with hsame | ⟨prog, len, hprog, hlen, hlock, rfl⟩
  · refine ArbInv.of_sameClaims (s := setIssuer p s) hi hsame (fun x hx => exec_keeps_free h hx) (exec_keeps_halt h)
      fun hbusy hh hclaim => ?_
    have hrunning : s.halt = false := hh
    have hother : p ≠ s.arbReq.port := fun e => by
      simp [(claimInProgress_iff s p).mpr ⟨hbusy, e.symm⟩, hrunning] at hw
    rw [setIssuer_arbReq, exec_keeps_other_slots h hother]
    exact hclaim
  · exact ArbInv.accept (s := setIssuer p s) hi hp hprog hlen hlock

/-! ## The steps of the arbitrator -/

/-- A claim that fails before RECORD leaves nothing reserved (42_arbitrator.md R159). -/
theorem ArbInv.failClaim (hh : s.halt = false) (hs : s.arbState ≠ .record) : ArbInv (failClaim s) := by
  obtain ⟨hc, -, -, -, -, -, -, hblocks⟩ := hi
  obtain ⟨-, hlock, hidle⟩ := failClaim_spec hh
  have hframe := onlyChanges_failClaim s
  have hcfg : (Machine.failClaim s).cfg = s.cfg := hframe .config (by simp)
  refine arbInv_of_idle (by rwa [hcfg]) hidle hlock fun k => ?_
  refine (hblocks k).of_onlyChanges hframe ?_
  rw [pendingLen_of_not_record (by simp [hidle]), pendingLen_of_not_record hs]

theorem ArbInv.arbScan (hh : s.halt = false) (hs : s.arbState = .scan) : ArbInv (arbScan s) := by
  cases hfind : firstFree s with
  | none =>
    rw [arbScan_of_none hfind]
    exact hi.failClaim hh (by simp [hs])
  | some x =>
    rw [arbScan_of_some hfind]
    obtain ⟨hx, hfree, -⟩ := firstFree_spec hfind
    obtain ⟨hc, hheld, howner, hoperands, houtstanding, -, -, hblocks⟩ := hi
    have hbusy : s.arbState ≠ .idle := by simp [hs]
    refine ⟨hc, by simpa using hheld.mpr hbusy, howner, fun _ => hoperands hbusy, fun _ => houtstanding hbusy,
      fun _ => ⟨hfree, hx⟩, by simp, fun k => ?_⟩
    refine (hblocks k).of_onlyChanges (onlyChanges_setArb s _ _) ?_
    rw [pendingLen_of_not_record (by simp), pendingLen_of_not_record (by simp [hs])]

/-- A claim that comes from LOAD to RECORD: all that is to be shown is that the offset found is right and that the
blocks are. -/
theorem ArbInv.to_record {t : State} (hs : s.arbState = .load)
    (hframe : OnlyChanges s t [.arbiter, .occupancy s.arbSel.unit.blk]) (hstate : t.arbState = .record)
    (hreq : t.arbReq = s.arbReq) (hunit : t.arbSel.unit = s.arbSel.unit)
    (hoffset : ((entryOf s s.arbSel.unit.blk s.arbReq.p).valid = true →
        t.arbSel.offset = (entryOf s s.arbSel.unit.blk s.arbReq.p).offset) ∧
      ((entryOf s s.arbSel.unit.blk s.arbReq.p).valid = false →
        t.arbSel.offset.toNat + s.arbReq.len.toNat = (blkOf t s.arbSel.unit.blk).imemUsed))
    (hblock : BlockInv t s.arbSel.unit.blk) : ArbInv t := by
  obtain ⟨hc, hheld, howner, hoperands, houtstanding, hlatched, -, hblocks⟩ := hi
  have hbusy : s.arbState ≠ .idle := by simp [hs]
  have hcfg : t.cfg = s.cfg := hframe .config (by simp)
  have hlock : t.lock = s.lock := hframe .lock (by simp)
  have hhalt : t.halt = s.halt := (hframe .error (by simp)).1
  have hslot : slotOf t s.arbReq.port = slotOf s s.arbReq.port := hframe (.slot _) (by simp)
  have hfree : unitStateOf t s.arbSel.unit = unitStateOf s s.arbSel.unit := hframe (.unit _) (by simp)
  have hentry : entryOf t s.arbSel.unit.blk s.arbReq.p = entryOf s s.arbSel.unit.blk s.arbReq.p :=
    hframe (.entry _ _) (by simp)
  refine ⟨by rwa [hcfg], by simp [hlock, hstate, hheld.mpr hbusy], by rwa [hlock, hreq], fun _ => ?_, fun _ => ?_,
    fun _ => ?_, fun _ => ?_, fun k => ?_⟩
  · rw [hreq, hcfg]
    exact hoperands hbusy
  · rw [hreq, hhalt, hslot]
    exact houtstanding hbusy
  · rw [hunit, hcfg, hfree]
    exact hlatched (.inl hs)
  · rw [hunit, hreq, hentry]
    exact hoffset
  · by_cases hk : s.arbSel.unit.blk = k
    · exact hk ▸ hblock
    · refine (hblocks k).of_onlyChanges hframe ?_ (by simpa using Ne.symm hk)
      rw [pendingLen_of_other_block (by rwa [hunit]), pendingLen_of_other_block hk]

theorem ArbInv.arbLoad (hh : s.halt = false) (hs : s.arbState = .load) : ArbInv (arbLoad s) := by
  obtain ⟨hc, -, -, hoperands, -, -, -, hblocks⟩ := id hi
  obtain ⟨-, hlen, -⟩ := hoperands (by simp [hs])
  have hbefore : pendingLen s s.arbSel.unit.blk = 0 := pendingLen_of_not_record (by simp [hs])
  cases hv : (entryOf s s.arbSel.unit.blk s.arbReq.p).valid with
  | true =>
    rw [arbLoad_of_resident hv]
    have hframe := onlyChanges_setArb s .record
      ⟨s.arbSel.unit, (entryOf s s.arbSel.unit.blk s.arbReq.p).offset⟩
    refine hi.to_record hs (hframe.mono (by simp)) rfl rfl rfl ⟨fun _ => rfl, by simp [hv]⟩ ?_
    exact (hblocks _).of_onlyChanges hframe
      (by rw [pendingLen_of_resident (by simpa using hv), hbefore])
  | false =>
    by_cases hm : (blkOf s s.arbSel.unit.blk).imemUsed + s.arbReq.len.toNat ≤ s.cfg.m
    · have hframe := (onlyChanges_loadProgram s s.arbSel.unit.blk s.arbReq.len).trans
        (onlyChanges_setArb _ .record ⟨s.arbSel.unit, BitVec.ofNat 8 (blkOf s s.arbSel.unit.blk).imemUsed⟩)
      rw [arbLoad_of_fits hv hm]
      refine hi.to_record hs (hframe.mono (by simp)) rfl rfl rfl ⟨by simp [hv], fun _ => ?_⟩ ?_
      · simp only [setArb_arbSel, toNat_offset hc (le_of_add_le_left hm)]
        simp [blkOf_setBlk, loadProgram]
      · have hentry := fun p => hframe (.entry s.arbSel.unit.blk p) (by simp)
        refine (hblocks _).place (len := s.arbReq.len) rfl hentry hbefore ?_ hlen ?_ hm ?_
        · exact pendingLen_of_record rfl rfl ((congrArg _ (hentry _)).trans hv)
        · simp [blkOf_setBlk, loadProgram]
        · simp [blkOf_setBlk, loadProgram]
    · rw [arbLoad_of_no_room hv (Nat.lt_of_not_le hm)]
      exact hi.failClaim hh (by simp [hs])

/-- The blocks after RECORD: on the unit's block a program that was not listed now is. -/
theorem ArbInv.blockInv_arbRecord (hs : s.arbState = .record) (k : Blk) : BlockInv (arbRecord s) k := by
  obtain ⟨-, -, -, hoperands, -, -, hoffset, hblocks⟩ := hi
  obtain ⟨hp, hlen, -⟩ := hoperands (by simp [hs])
  obtain ⟨-, hplace⟩ := hoffset hs
  have hframe := onlyChanges_arbRecord s
  have hcfg : (arbRecord s).cfg = s.cfg := hframe .config (by simp)
  have hocc : unchanged s (arbRecord s) (.occupancy k) := hframe _ (by simp)
  have hafter : pendingLen (arbRecord s) k = 0 := pendingLen_of_not_record (s := arbRecord s) (by simp [arbRecord])
  have hentry := entryOf_arbRecord s k
  by_cases hk : s.arbSel.unit.blk = k
  · subst hk
    cases hv : (entryOf s s.arbSel.unit.blk s.arbReq.p).valid with
    | true =>
      refine (hblocks _).of_same hcfg (fun q => ?_) hocc (by rw [hafter, pendingLen_of_resident hv])
      rw [hentry]
      split
      · next hq =>
        obtain ⟨-, rfl⟩ := hq
        exact recordEntry_of_valid hv _ _
      · rfl
    | false =>
      have hadded : EntryAdded s (arbRecord s) s.arbSel.unit.blk s.arbReq.p
          ⟨true, s.arbSel.offset, s.arbReq.len⟩ :=
        ⟨hv, by rw [hentry, if_pos ⟨rfl, rfl⟩, recordEntry_of_not_valid hv],
          fun q hq => by rw [hentry, if_neg fun h => hq h.2]⟩
      exact (hblocks _).record hadded hcfg hocc (pendingLen_of_record hs rfl hv) hafter hp hlen (hplace hv)
  · refine (hblocks k).of_same hcfg (fun q => ?_) hocc (by rw [hafter, pendingLen_of_other_block hk])
    rw [hentry, if_neg fun h => hk h.1]

theorem ArbInv.arbRecord (hs : s.arbState = .record) : ArbInv (arbRecord s) := by
  obtain ⟨hc, -⟩ := id hi
  have hcfg : (Machine.arbRecord s).cfg = s.cfg := onlyChanges_arbRecord s .config (by simp)
  exact arbInv_of_idle (by rwa [hcfg]) rfl rfl (hi.blockInv_arbRecord hs)

/-! ## Every step -/

theorem ArbInv.event {t : State} {e : Event} (h : EventEffect s e t) : ArbInv t := by
  cases h with
  | reset =>
    obtain ⟨hc, -⟩ := hi
    exact arbInv_resetWith s.cfg hc
  | present p c hp =>
    have hframe := onlyChanges_setSlot s p (some c)
    refine hi.of_sameClaims hframe.sameClaims (fun _ hx => hx)
      (fun hh => hh) fun _ _ hclaim => ?_
    rw [slotOf_setSlot]
    split
    · simp
    · exact hclaim
  | serve p c hc hw t h => exact hi.exec (by simp [hc]) hw h
  | scan hh hs => exact hi.arbScan hh hs
  | load hh hs => exact hi.arbLoad hh hs
  | record hh hs => exact hi.arbRecord hs
  | nothing | engineIn | engineOut => exact hi

end

/-- Settles O43: taking the next event touches the schedule only, and every event keeps the invariant. -/
theorem arbInvIsKept : Obligations.ArbInvIsKept := by
  intro s t hi hstep
  have heffect := step_effect hstep
  obtain ⟨agenda, envPos, hnext⟩ := nextEvent_eq_setSchedule s
  rw [hnext] at heffect
  exact ArbInv.event (s := setSchedule agenda envPos s) hi heffect

end Sys2Proof.Machine
end

section
/-! PROOFS. A ring as a queue: what Enqueue and Dequeue do to the words it holds (43_ringbuffer.md R170 to
R173). -/

namespace Sys2Proof.Machine

/-! ## One word moved (43_ringbuffer.md R171, R172) -/

section
variable {c : BufConfig} {b x : Buffer} {w : Word}

theorem wordEnqueued_of_enqueue (h : enqueue c b w = .ok x) : WordEnqueued c b x w := by
  obtain ⟨-, -, rfl⟩ := enqueue_cases c b x w h
  exact ⟨Memory.read_write_same _ _ _, fun j hj => Memory.read_write_other _ _ j _ hj, rfl, rfl⟩

/-- Enqueue writes the array and head only. -/
theorem enqueue_frame (h : enqueue c b w = .ok x) : x = { b with mem := x.mem, head := x.head } := by
  obtain ⟨-, -, rfl⟩ := enqueue_cases c b x w h
  rfl

theorem wordDequeued_of_dequeue (h : dequeue c b = .ok (w, x)) : WordDequeued c b x w := by
  obtain ⟨-, hread, rfl⟩ := dequeue_cases c b x w h
  exact ⟨hread, rfl, rfl, rfl⟩

/-- Dequeue writes tail only. -/
theorem dequeue_frame (h : dequeue c b = .ok (w, x)) : x = { b with tail := x.tail } := by
  obtain ⟨-, -, rfl⟩ := dequeue_cases c b x w h
  rfl

/-- Enqueue is defined wherever there is room. -/
theorem exists_enqueue (hn : 0 < c.n) (hroom : 1 ≤ freeWords c b) (w : Word) : ∃ x, enqueue c b w = .ok x :=
  ⟨_, enqueue_ok c b w hn (by omega)⟩

/-- Under the ring invariant Dequeue is defined wherever a word is held: the oldest word was written. -/
theorem exists_dequeue (hn : 0 < c.n) (hr : RingInv c b) (hheld : fill c b ≠ 0) :
    ∃ w x, dequeue c b = .ok (w, x) := by
  obtain ⟨-, -, -, -, -, hwritten⟩ := hr
  obtain ⟨w, hw⟩ := Option.isSome_iff_exists.mp (hwritten 0 (by omega))
  exact ⟨w, _, dequeue_ok c b w hn hheld hw⟩

end

/-- Settles O23: what `enqueue` and `dequeue` answer where the spec defines them. -/
theorem queuePrimitivesMoveOneWord : Obligations.QueuePrimitivesMoveOneWord := by
  intro c b hn
  constructor
  · intro v hroom
    obtain ⟨x, hx⟩ := exists_enqueue hn hroom v
    exact ⟨x, hx, wordEnqueued_of_enqueue hx, enqueue_frame hx⟩
  · intro v hheld hread
    have hx := dequeue_ok c b v hn (by omega) hread
    exact ⟨_, hx, wordDequeued_of_dequeue hx, dequeue_frame hx⟩

/-! ## The words a ring holds (43_ringbuffer.md R170) -/

/-- Places of the array counted from an advanced index are one place further on. -/
theorem advance_add_mod (c : BufConfig) (i k : Nat) : (advance c i + k) % c.n = (i + (k + 1)) % c.n := by
  rw [advance, Nat.add_mod, Nat.mod_mul_left_mod, ← Nat.add_mod, Nat.add_assoc, Nat.add_comm 1 k]

/-- Fewer than N places apart, two array places differ. -/
theorem place_ne {n i j k : Nat} (hjk : j < k) (hk : k < n) : (i + j) % n ≠ (i + k) % n := by
  intro h
  have hmod : j % n = k % n := Nat.ModEq.add_left_cancel' i h
  rw [Nat.mod_eq_of_lt (by omega), Nat.mod_eq_of_lt hk] at hmod
  omega

section
variable {c : BufConfig} {b x : Buffer} {w : Word}

theorem length_contents : (contents c b).length = fill c b := by simp [contents]

theorem none_not_mem_contents (hr : RingInv c b) : none ∉ contents c b := by
  obtain ⟨-, -, -, -, -, hwritten⟩ := hr
  intro hmem
  obtain ⟨k, hk, hread⟩ := List.mem_map.mp hmem
  have hsome := hwritten k (List.mem_range.mp hk)
  simp [hread] at hsome

/-- The enqueued word stands behind those held, whose places are others. -/
theorem Enqueues.contents_eq (h : Enqueues c b x) (hr : RingInv c b) (hw : WordEnqueued c b x w) :
    contents c x = contents c b ++ [some w] := by
  have hfill := h.fill_eq hr
  obtain ⟨hroom, -⟩ := h
  obtain ⟨hnew, hothers, -, htail⟩ := hw
  obtain ⟨hh, ht, -⟩ := hr
  have hlt : fill c b < c.n := by simp only [freeWords] at hroom; omega
  have hplace : b.head % c.n = (b.tail + fill c b) % c.n := headIndex_eq c b hh ht
  rw [hplace] at hnew hothers
  rw [contents, hfill, htail, List.range_succ, List.map_append, List.map_singleton, hnew]
  congr 1
  exact List.map_congr_left fun k hk => hothers _ (place_ne (List.mem_range.mp hk) hlt)

/-- The dequeued word is the first of those held, and the others stay in order. -/
theorem contents_of_dequeue (hr : RingInv c b) (h : dequeue c b = .ok (w, x)) :
    contents c b = some w :: contents c x := by
  have hfill := (dequeues_of_dequeue h).fill_eq hr
  obtain ⟨-, hread, rfl⟩ := dequeue_cases c b x w h
  simp only [contents, ← hfill, List.range_succ_eq_map, List.map_cons, List.map_map, Nat.add_zero]
  congr 1
  refine List.map_congr_left fun k _ => ?_
  simp only [Function.comp_apply, advance_add_mod]

end

/-- Settles O24: Enqueue appends to the words held and Dequeue takes the first of them. -/
theorem ringIsAFifoQueue : Obligations.RingIsAFifoQueue := by
  intro c b hn hr
  refine ⟨length_contents, none_not_mem_contents hr, fun v hlt => ?_, fun hheld => ?_⟩
  · obtain ⟨x, hx⟩ := exists_enqueue (b := b) hn (by simp only [freeWords]; omega) v
    exact ⟨x, hx, (enqueues_of_enqueue hx).ringInv hr,
      (enqueues_of_enqueue hx).contents_eq hr (wordEnqueued_of_enqueue hx)⟩
  · obtain ⟨v, x, hx⟩ := exists_dequeue hn hr hheld
    exact ⟨v, x, hx, (dequeues_of_dequeue hx).ringInv hr, contents_of_dequeue hr hx⟩

end Sys2Proof.Machine
end

section
/-! PROOFS. The foreground commands of the ring buffers: RB.WR, RB.WRB, RB.RD, RB.RDB, RB.BEGIN and RB.ACK
(43_ringbuffer.md R174 to R184, R190). -/

namespace Sys2Proof.Machine

theorem bufOf_setBuf_same {s : State} {b : Idx} (x : Buffer) : bufOf (setBuf s b x) b = x := by
  rw [bufOf_setBuf, if_pos rfl]

/-- The effect of a command that writes one buffer and answers OK. -/
theorem respondOk_setBuf_spec (s : State) (i : Idx) (x : Buffer) (v : Word) :
    Answered s (respondOk v (setBuf s i x)) s.issuer .ok v ∧
      OnlyChanges s (respondOk v (setBuf s i x)) [.buffer i, .slot s.issuer, .trace] ∧
      bufOf (respondOk v (setBuf s i x)) i = x := by
  refine ⟨answered_respondOk_of v (setBuf_issuer s i x) (setBuf_trace s i x),
    onlyChanges_respondOk_of v (setBuf_issuer s i x) (onlyChanges_setBuf s i x), bufOf_setBuf_same x⟩

/-! ## Commands that move one word (43_ringbuffer.md R174 to R178) -/

theorem enqueueRespond_of_enqueue {s : State} {i : Idx} {w : Word} {x : Buffer}
    (h : enqueue (bufCfg s i) (bufOf s i) w = .ok x) :
    enqueueRespond i w s = .next (respondOk 0 (setBuf s i x)) := by
  simp [enqueueRespond, h]

theorem dequeueRespond_of_dequeue {s : State} {i : Idx} {v : Word} {x : Buffer}
    (h : dequeue (bufCfg s i) (bufOf s i) = .ok (v, x)) :
    dequeueRespond i s = .next (respondOk v (setBuf s i x)) := by
  simp [dequeueRespond, h]

section
variable {s : State} {b : BitVec 4} {i : Idx}
variable (hh : s.halt = false) (hb : b.toNat = i.val) (hi : i.val < s.cfg.nBuf)
include hh hb hi

/-- RB.WR on an existing buffer is decided by its direction and its room. -/
theorem exec_rbWr (w : Word) :
    exec (.rbWr b w) s =
      if (bufCfg s i).dir ≠ .output then .next (refuse .badstate s)
      else if freeWords (bufCfg s i) (bufOf s i) = 0 then .next (refuse .full s)
      else enqueueRespond i w s := by
  refine (unlessHalted_of_running hh _).trans ?_
  simp only [selBuf_of hb hi]

/-- RB.WRB differs from RB.WR in being held on a full buffer. -/
theorem exec_rbWrb (w : Word) :
    exec (.rbWrb b w) s =
      if (bufCfg s i).dir ≠ .output then .next (refuse .badstate s)
      else if freeWords (bufCfg s i) (bufOf s i) = 0 then .next s
      else enqueueRespond i w s := by
  refine (unlessHalted_of_running hh _).trans ?_
  simp only [selBuf_of hb hi]

/-- RB.RD on an existing buffer is decided by its direction and by what it holds. -/
theorem exec_rbRd :
    exec (.rbRd b) s =
      if (bufCfg s i).dir ≠ .input then .next (refuse .badstate s)
      else if fill (bufCfg s i) (bufOf s i) = 0 then .next (refuse .empty s)
      else dequeueRespond i s := by
  refine (unlessHalted_of_running hh _).trans ?_
  simp only [selBuf_of hb hi]

/-- RB.RDB differs from RB.RD in being held on an empty buffer. -/
theorem exec_rbRdb :
    exec (.rbRdb b) s =
      if (bufCfg s i).dir ≠ .input then .next (refuse .badstate s)
      else if fill (bufCfg s i) (bufOf s i) = 0 then .next s
      else dequeueRespond i s := by
  refine (unlessHalted_of_running hh _).trans ?_
  simp only [selBuf_of hb hi]

/-- With room the two ways to write a word are one. -/
theorem exec_write_of_room {w : Word} {instr : Instr} (hinstr : instr = .rbWr b w ∨ instr = .rbWrb b w)
    (hd : (bufCfg s i).dir = .output) (hroom : 1 ≤ freeWords (bufCfg s i) (bufOf s i)) :
    exec instr s = enqueueRespond i w s := by
  have hne : freeWords (bufCfg s i) (bufOf s i) ≠ 0 := by omega
  rcases hinstr with rfl | rfl
  · rw [exec_rbWr hh hb hi, if_neg (by simp [hd]), if_neg hne]
  · rw [exec_rbWrb hh hb hi, if_neg (by simp [hd]), if_neg hne]

/-- With a word held the two ways to read one are one. -/
theorem exec_read_of_held {instr : Instr} (hinstr : instr = .rbRd b ∨ instr = .rbRdb b)
    (hd : (bufCfg s i).dir = .input) (hheld : 1 ≤ fill (bufCfg s i) (bufOf s i)) :
    exec instr s = dequeueRespond i s := by
  have hne : fill (bufCfg s i) (bufOf s i) ≠ 0 := by omega
  rcases hinstr with rfl | rfl
  · rw [exec_rbRd hh hb hi, if_neg (by simp [hd]), if_neg hne]
  · rw [exec_rbRdb hh hb hi, if_neg (by simp [hd]), if_neg hne]

end

/-- Settles O25: the branches of RB.WR and RB.WRB on an OUT buffer. -/
theorem writesEnqueueOrReportFull : Obligations.WritesEnqueueOrReportFull := by
  intro s b w i hh hb hi hd hn
  constructor
  · intro hroom instr hinstr
    obtain ⟨x, hx⟩ := exists_enqueue hn hroom w
    obtain ⟨hanswered, hframe, hbuf⟩ := respondOk_setBuf_spec s i x 0
    refine ⟨_, (exec_write_of_room hh hb hi hinstr hd hroom).trans (enqueueRespond_of_enqueue hx),
      hanswered, hframe, ?_⟩
    rw [hbuf]
    exact ⟨wordEnqueued_of_enqueue hx, enqueue_frame hx⟩
  · intro hfull
    refine ⟨⟨refuse .full s, ?_, refused_refuse .full s⟩, ?_⟩
    · rw [exec_rbWr hh hb hi, if_neg (by simp [hd]), if_pos hfull]
    · rw [exec_rbWrb hh hb hi, if_neg (by simp [hd]), if_pos hfull]

/-- Settles O26: the branches of RB.RD and RB.RDB on an IN buffer. -/
theorem readsDequeueOrReportEmpty : Obligations.ReadsDequeueOrReportEmpty := by
  intro s b i hh hb hi hd hn
  constructor
  · intro v hheld hread instr hinstr
    have hx := dequeue_ok _ _ v hn (by omega) hread
    obtain ⟨hanswered, hframe, hbuf⟩ := respondOk_setBuf_spec s i _ v
    refine ⟨_, (exec_read_of_held hh hb hi hinstr hd hheld).trans (dequeueRespond_of_dequeue hx),
      hanswered, hframe, ?_⟩
    rw [hbuf]
    exact ⟨wordDequeued_of_dequeue hx, dequeue_frame hx⟩
  · intro hempty
    refine ⟨⟨refuse .empty s, ?_, refused_refuse .empty s⟩, ?_⟩
    · rw [exec_rbRd hh hb hi, if_neg (by simp [hd]), if_pos hempty]
    · rw [exec_rbRdb hh hb hi, if_neg (by simp [hd]), if_pos hempty]

/-- Settles O27: the direction is checked first, and no later branch answers BADSTATE. -/
theorem wrongDirectionIsBadstate : Obligations.WrongDirectionIsBadstate := by
  intro s b w i hh hb hi
  have hrefused := refused_refuse .badstate s
  simp only [IsRefused, neverAnswers_iff, exec_rbWr hh hb hi, exec_rbWrb hh hb hi, exec_rbRd hh hb hi,
    exec_rbRdb hh hb hi]
  constructor
  · intro hd
    have hwrong : (bufCfg s i).dir ≠ .output := by simp [hd]
    simp only [if_pos hwrong, if_neg (not_not_intro hd)]
    have hread := neverAnswers_dequeueRespond (s := s) (i := i) (st := .badstate) (by decide)
    exact ⟨⟨_, rfl, hrefused⟩, ⟨_, rfl, hrefused⟩, neverAnswers_ite (neverAnswers_refuse (by decide)) hread,
      neverAnswers_ite (neverAnswers_silent rfl) hread⟩
  · intro hd
    have hwrong : (bufCfg s i).dir ≠ .input := by simp [hd]
    simp only [if_pos hwrong, if_neg (not_not_intro hd)]
    have hwrite := neverAnswers_enqueueRespond (s := s) (i := i) (w := w) (st := .badstate) (by decide)
    exact ⟨⟨_, rfl, hrefused⟩, ⟨_, rfl, hrefused⟩, neverAnswers_ite (neverAnswers_refuse (by decide)) hwrite,
      neverAnswers_ite (neverAnswers_silent rfl) hwrite⟩

/-! ## Binding a buffer and clearing its pending bit (43_ringbuffer.md R182, R183, R190) -/

/-- RB.BEGIN of an existing buffer and unit binds the one to the other, unless a cause of R183 holds. -/
theorem exec_rbBegin {s : State} {b tblk tu : BitVec 4} {i : Idx} {x : UnitId} (hh : s.halt = false)
    (hb : b.toNat = i.val) (hi : i.val < s.cfg.nBuf) (hblk : tblk.toNat = x.blk.val) (hu : tu.toNat = x.u.val)
    (hx : x.u.val < s.cfg.u) (cb : Bool) (a : Word) :
    exec (.rbBegin b tblk tu cb a) s =
      if beginFails s i x a then .next (raiseFatal .transferInitFailure s.issuer s)
      else .next (respondOk 0 (setBuf s i (bindBuffer (bufOf s i) x a cb s.issuer.core))) := by
  refine (unlessHalted_of_running hh _).trans ?_
  simp only [selBuf_of hb hi, selUnit_of hblk hu hx]

/-- Settles O28: with none of the four causes RB.BEGIN binds. -/
theorem beginBindsTheBuffer : Obligations.BeginBindsTheBuffer := by
  intro s b tblk tu cb a i x hh hb hi hblk hu hx hunbound haligned hunit hother
  have harms : ¬ CannotArm s i x a := by
    rintro (hbound | hmis | hfree | hrun | ⟨j, hji, hj, hbound, htrig⟩)
    · simp [hunbound] at hbound
    · exact hmis haligned
    · simp [hfree] at hunit
    · simp [hrun] at hunit
    · exact hother j hji hj hbound htrig
  have hexec := exec_rbBegin hh hb hi hblk hu hx cb a
  rw [if_neg (mt (beginFails_iff s i x a).mp harms)] at hexec
  exact ⟨_, hexec, respondOk_setBuf_spec s i _ 0⟩

/-- Settles O29: each of the four causes makes RB.BEGIN raise TransferInitFailure. -/
theorem beginThatCannotArmIsFatal : Obligations.BeginThatCannotArmIsFatal := by
  intro s b tblk tu cb a i x hh hb hi hblk hu hx hcause
  have hexec := exec_rbBegin hh hb hi hblk hu hx cb a
  rw [if_pos ((beginFails_iff s i x a).mpr hcause)] at hexec
  obtain ⟨hanswered, hhalt, hcode, hcore⟩ := raised_raiseFatal hh .transferInitFailure s.issuer
  exact ⟨_, hexec, ⟨hanswered, hhalt, hcode, hcore⟩, hcode, onlyChanges_raiseFatal s .transferInitFailure s.issuer⟩

/-- RB.ACK on an existing buffer of either direction. -/
theorem exec_rbAck {s : State} {b : BitVec 4} {i : Idx} (hh : s.halt = false) (hb : b.toNat = i.val)
    (hi : i.val < s.cfg.nBuf) :
    exec (.rbAck b) s = .next (respondOk 0 (setBuf s i { bufOf s i with irqPend := false })) := by
  refine (unlessHalted_of_running hh _).trans ?_
  simp only [selBuf_of hb hi]

/-- Settles O30: a buffer write and the answer OK. -/
theorem ackClearsThePendingBit : Obligations.AckClearsThePendingBit := by
  intro s b i hh hb hi
  exact ⟨_, exec_rbAck hh hb hi, respondOk_setBuf_spec s i _ 0⟩

end Sys2Proof.Machine
end

section
/-! PROOFS. One step of a transfer engine: that it never stops, the word it moves, the flags and counters it writes
(43_ringbuffer.md R185 to R188). -/

namespace Sys2Proof.Machine

/-! ## Everything one step of an engine writes -/

/-- What a step of an IN engine that takes `w` from the wire does: as `EngineInStep`, with the word, the flag and the
counters. -/
structure EngineInMoves (c : BufConfig) (b x : Buffer) (w : Word) : Prop extends EngineInStep c b x where
  wireIn : x.wireIn = b.wireIn
  counted : UnitCounted c b x
  overrun : x.overrun = if b.phase = 0 ∧ freeWords c b < 2 then true else b.overrun
  drops : x.drops = if b.phase = 0 ∧ freeWords c b < 2 then b.drops + 1 else b.drops
  enqueued : x.latch = true → WordEnqueued c b x w

/-- What a step of an OUT engine that sends `w` does: as `EngineOutStep`, with the word, the flag and the counters. -/
structure EngineOutMoves (c : BufConfig) (b x : Buffer) (w : Word) : Prop extends EngineOutStep c b x where
  sent : x.wireOut = b.wireOut ++ [w]
  counted : UnitCounted c b x
  underrun : x.underrun = if b.phase = 0 ∧ fill c b < 2 then true else b.underrun
  drops : x.drops = if b.phase = 0 ∧ fill c b < 2 then b.drops + 1 else b.drops
  dequeued : x.latch = true → WordDequeued c b x w
  silent : x.latch = false → w = 0

theorem unitCounted_countUnit (c : BufConfig) (b : Buffer) : UnitCounted c b (countUnit c b) := by
  by_cases hlast : b.ucount + 1 = c.xferUnit
  · simp [UnitCounted, countUnit, hlast]
  · simp [UnitCounted, countUnit, hlast]

/-- A frame is dropped, flagged and counted exactly where its first word does not find room for both (R186). -/
theorem decideIn_flags (c : BufConfig) (b : Buffer) :
    (decideIn c b).overrun = (if b.phase = 0 ∧ freeWords c b < 2 then true else b.overrun) ∧
      (decideIn c b).drops = if b.phase = 0 ∧ freeWords c b < 2 then b.drops + 1 else b.drops := by
  unfold decideIn
  split
  · next hfirst =>
    split
    · next hroom => simp [Nat.not_lt.mpr (show 2 ≤ freeWords c b from hroom)]
    · next hroom => simp [hfirst, show freeWords c b < 2 from Nat.not_le.mp hroom]
  · next hsecond => simp [hsecond]

/-- A frame is replaced by silence, flagged and counted exactly where its first word does not find both held (R187). -/
theorem decideOut_flags (c : BufConfig) (b : Buffer) :
    (decideOut c b).underrun = (if b.phase = 0 ∧ fill c b < 2 then true else b.underrun) ∧
      (decideOut c b).drops = if b.phase = 0 ∧ fill c b < 2 then b.drops + 1 else b.drops := by
  unfold decideOut
  split
  · next hfirst =>
    split
    · next hheld => simp [Nat.not_lt.mpr (show 2 ≤ fill c b from hheld)]
    · next hheld => simp [hfirst, show fill c b < 2 from Nat.not_le.mp hheld]
  · next hsecond => simp [hsecond]

section
variable {c : BufConfig} {b x : Buffer} {w : Word}

theorem engineIn_moves (h : engineIn c b w = .ok x) : EngineInMoves c b x w := by
  have hstep := engineIn_step h
  obtain ⟨latch, overrun, drops, hdec, -⟩ := decideIn_eq c { b with winPos := b.winPos + 1 }
  obtain ⟨hover, hdrops⟩ := decideIn_flags c { b with winPos := b.winPos + 1 }
  rw [hdec] at hover hdrops
  simp only [engineIn, hdec] at h
  split at h
  · cases h
  · next b2 hb2 =>
    have hcounted := unitCounted_countUnit c { b2 with phase := nextPhase b2 }
    obtain ⟨units, pend, hcount⟩ := countUnit_eq c { b2 with phase := nextPhase b2 }
    rw [hcount] at h hcounted
    cases h
    cases latch with
    | true =>
      have hword := wordEnqueued_of_enqueue hb2
      obtain ⟨-, -, rfl⟩ := enqueue_cases _ _ _ _ hb2
      exact ⟨hstep, rfl, hcounted, hover, hdrops, fun _ => hword⟩
    | false =>
      cases hb2
      exact ⟨hstep, rfl, hcounted, hover, hdrops, nofun⟩

theorem engineOut_moves (h : engineOut c b = .ok x) : ∃ w, EngineOutMoves c b x w := by
  have hstep := engineOut_step h
  obtain ⟨latch, underrun, drops, hdec, -⟩ := decideOut_eq c b
  obtain ⟨hunder, hdrops⟩ := decideOut_flags c b
  rw [hdec] at hunder hdrops
  simp only [engineOut, hdec] at h
  split at h
  · cases h
  · next w b2 hb2 =>
    have hcounted := unitCounted_countUnit c { b2 with wireOut := b2.wireOut ++ [w], phase := nextPhase b2 }
    obtain ⟨units, pend, hcount⟩ := countUnit_eq c { b2 with wireOut := b2.wireOut ++ [w], phase := nextPhase b2 }
    rw [hcount] at h hcounted
    cases h
    refine ⟨w, ?_⟩
    cases latch with
    | true =>
      have hword := wordDequeued_of_dequeue hb2
      obtain ⟨-, -, rfl⟩ := dequeue_cases _ _ _ _ hb2
      exact ⟨hstep, rfl, hcounted, hunder, hdrops, fun _ => hword, nofun⟩
    | false =>
      cases hb2
      exact ⟨hstep, rfl, hcounted, hunder, hdrops, nofun, fun _ => rfl⟩

/-! ## An engine never stops (43_ringbuffer.md R171, R172) -/

/-- A frame that goes through the ring has room (or a word) for its next word: decided now, or kept since its first
word. -/
theorem room_of_latch {p r : Nat} {l l' : Bool} (hp : p < 2) (hdecides : p = 0 → (l' = true ↔ 2 ≤ r))
    (hremembers : p ≠ 0 → l' = l) (hkept : p = 1 → l = true → 1 ≤ r) (hl : l' = true) : 1 ≤ r := by
  by_cases hfirst : p = 0
  · have hroom := (hdecides hfirst).mp hl
    omega
  · exact hkept (by omega) (hremembers hfirst ▸ hl)

theorem exists_engineIn (hn : 0 < c.n) (hd : c.dir = .input) (hi : EngineInv c b) (w : Word) :
    ∃ x, engineIn c b w = .ok x := by
  obtain ⟨latch, overrun, drops, hdec, hdecides, hremembers⟩ := decideIn_eq c { b with winPos := b.winPos + 1 }
  simp only [engineIn, hdec]
  cases latch with
  | false => exact ⟨_, rfl⟩
  | true =>
    obtain ⟨hp, -, -, hin, -⟩ := hi
    obtain ⟨-, -, hkept, -⟩ := hin hd
    have hroom := room_of_latch hp hdecides hremembers hkept rfl
    obtain ⟨y, hy⟩ := exists_enqueue
      (b := { b with winPos := b.winPos + 1, latch := true, overrun := overrun, drops := drops }) hn hroom w
    simp only [if_true, hy]
    exact ⟨_, rfl⟩

theorem exists_engineOut (hn : 0 < c.n) (hd : c.dir = .output) (hr : RingInv c b) (hi : EngineInv c b) :
    ∃ x, engineOut c b = .ok x := by
  obtain ⟨latch, underrun, drops, hdec, hdecides, hremembers⟩ := decideOut_eq c b
  simp only [engineOut, hdec]
  cases latch with
  | false => exact ⟨_, rfl⟩
  | true =>
    obtain ⟨hp, -, -, -, hout⟩ := hi
    obtain ⟨-, -, hkept, -⟩ := hout hd
    have hheld := room_of_latch hp hdecides hremembers hkept rfl
    obtain ⟨v, y, hy⟩ := exists_dequeue
      (b := { b with latch := true, underrun := underrun, drops := drops }) hn hr (Nat.pos_iff_ne_zero.mp hheld)
    simp only [if_true, hy]
    exact ⟨_, rfl⟩

end

/-! ## The event of an engine (43_ringbuffer.md R185) -/

section
variable {s : State} {b : Idx}

theorem runEvent_xfer_of_not_enabled (he : xferEnabled s b = false) : runEvent (.xfer b) s = .next s := by
  change xferStep b s = _
  simp [xferStep, he]

theorem runEvent_xfer_of_input (he : xferEnabled s b = true) (hd : (bufCfg s b).dir = .input) {x : Buffer}
    (hx : engineIn (bufCfg s b) (bufOf s b) (wireInWord s b (bufOf s b).winPos) = .ok x) :
    runEvent (.xfer b) s = .next (setBuf s b x) := by
  change xferStep b s = _
  simp [xferStep, he, hd, hx]

theorem runEvent_xfer_of_output (he : xferEnabled s b = true) (hd : (bufCfg s b).dir = .output) {x : Buffer}
    (hx : engineOut (bufCfg s b) (bufOf s b) = .ok x) : runEvent (.xfer b) s = .next (setBuf s b x) := by
  change xferStep b s = _
  simp [xferStep, he, hd, hx]

/-- A ring has places, by the bounds of 00_scope.md R4. -/
theorem bufCfg_n_pos (hv : s.cfg.Valid) (hb : b.val < s.cfg.nBuf) : 0 < (bufCfg s b).n := by
  obtain ⟨-, hn, -⟩ := bufCfg_valid hv hb
  omega

/-- An enabled IN engine moves one word of the wire. -/
theorem inputEngine_moves (hinv : BuffersInv s) (he : xferEnabled s b = true) (hd : (bufCfg s b).dir = .input) :
    ∃ x, runEvent (.xfer b) s = .next (setBuf s b x) ∧
      EngineInMoves (bufCfg s b) (bufOf s b) x (wireInWord s b (bufOf s b).winPos) := by
  obtain ⟨hv, hbufs⟩ := hinv
  obtain ⟨hb, -⟩ := (xferEnabled_iff s b).mp he
  obtain ⟨-, hi⟩ := hbufs b hb
  obtain ⟨x, hx⟩ := exists_engineIn (bufCfg_n_pos hv hb) hd hi (wireInWord s b (bufOf s b).winPos)
  exact ⟨x, runEvent_xfer_of_input he hd hx, engineIn_moves hx⟩

/-- An enabled OUT engine sends one word. -/
theorem outputEngine_moves (hinv : BuffersInv s) (he : xferEnabled s b = true) (hd : (bufCfg s b).dir = .output) :
    ∃ x w, runEvent (.xfer b) s = .next (setBuf s b x) ∧ EngineOutMoves (bufCfg s b) (bufOf s b) x w := by
  obtain ⟨hv, hbufs⟩ := hinv
  obtain ⟨hb, -⟩ := (xferEnabled_iff s b).mp he
  obtain ⟨hr, hi⟩ := hbufs b hb
  obtain ⟨x, hx⟩ := exists_engineOut (bufCfg_n_pos hv hb) hd hr hi
  obtain ⟨w, hw⟩ := engineOut_moves hx
  exact ⟨x, w, runEvent_xfer_of_output he hd hx, hw⟩

end

/-- Settles O31: the event runs the engine of the buffer's direction where it is enabled. -/
theorem engineStepsExactlyWhenRunning : Obligations.EngineStepsExactlyWhenRunning := by
  intro s b hinv hb
  have hiff : xferEnabled s b = true ↔ (bufOf s b).bound = true ∧ unitStateOf s (bufOf s b).trig = .running :=
    (xferEnabled_iff s b).trans (and_iff_right hb)
  rw [← hiff]
  refine ⟨fun he => ?_, fun he => runEvent_xfer_of_not_enabled (Bool.eq_false_iff.mpr he)⟩
  cases hd : (bufCfg s b).dir with
  | input =>
    obtain ⟨x, hrun, hx⟩ := inputEngine_moves hinv he hd
    refine ⟨_, hrun, onlyChanges_setBuf s b x, ?_⟩
    rw [bufOf_setBuf_same]
    exact ⟨hx.binding, fun _ => ⟨hx.winPos, hx.wireOut⟩, nofun⟩
  | output =>
    obtain ⟨x, w, hrun, hx⟩ := outputEngine_moves hinv he hd
    refine ⟨_, hrun, onlyChanges_setBuf s b x, ?_⟩
    rw [bufOf_setBuf_same]
    exact ⟨hx.binding, nofun, fun _ => ⟨hx.winPos, hx.wireOut⟩⟩

/-! ## Whole frames (43_ringbuffer.md R186 to R188) -/

section
variable {c : BufConfig} {b x : Buffer} {w : Word}

theorem EngineInStep.sameRing (h : EngineInStep c b x) (hl : x.latch = false) : SameRing b x := by
  simpa [hl] using h.ring

theorem EngineOutStep.sameRing (h : EngineOutStep c b x) (hl : x.latch = false) : SameRing b x := by
  simpa [hl] using h.ring

/-- The first word of a frame that fits. -/
theorem EngineInMoves.accepts (h : EngineInMoves c b x w) (hp : b.phase = 0) (hroom : 2 ≤ freeWords c b) :
    x.latch = true ∧ WordEnqueued c b x w ∧ x.overrun = b.overrun ∧ x.drops = b.drops := by
  have hkept : ¬ (b.phase = 0 ∧ freeWords c b < 2) := by omega
  have hl := (h.decides hp).mpr hroom
  exact ⟨hl, h.enqueued hl, by rw [h.overrun, if_neg hkept], by rw [h.drops, if_neg hkept]⟩

/-- The first word of a frame that does not fit. -/
theorem EngineInMoves.dropsFrame (h : EngineInMoves c b x w) (hp : b.phase = 0) (hroom : freeWords c b < 2) :
    x.latch = false ∧ SameRing b x ∧ x.overrun = true ∧ x.drops = b.drops + 1 := by
  have hl : x.latch = false := by
    rw [← Bool.not_eq_true, h.decides hp]
    omega
  exact ⟨hl, h.sameRing hl, by rw [h.overrun, if_pos ⟨hp, hroom⟩], by rw [h.drops, if_pos ⟨hp, hroom⟩]⟩

/-- The second word of a frame goes the way of the first. -/
theorem EngineInMoves.second (h : EngineInMoves c b x w) (hp : b.phase = 1) :
    x.latch = b.latch ∧ x.overrun = b.overrun ∧ x.drops = b.drops ∧
      (b.latch = true → WordEnqueued c b x w) ∧ (b.latch = false → SameRing b x) := by
  have hkept : ¬ (b.phase = 0 ∧ freeWords c b < 2) := by omega
  have hl := h.remembers (by omega)
  exact ⟨hl, by rw [h.overrun, if_neg hkept], by rw [h.drops, if_neg hkept],
    fun hb => h.enqueued (hl.trans hb), fun hb => h.sameRing (hl.trans hb)⟩

/-- The first word of a frame that the ring holds. -/
theorem EngineOutMoves.takes (h : EngineOutMoves c b x w) (hp : b.phase = 0) (hheld : 2 ≤ fill c b) :
    x.latch = true ∧ WordDequeued c b x w ∧ x.underrun = b.underrun ∧ x.drops = b.drops := by
  have hkept : ¬ (b.phase = 0 ∧ fill c b < 2) := by omega
  have hl := (h.decides hp).mpr hheld
  exact ⟨hl, h.dequeued hl, by rw [h.underrun, if_neg hkept], by rw [h.drops, if_neg hkept]⟩

/-- The first word of a frame of silence. -/
theorem EngineOutMoves.substitutes (h : EngineOutMoves c b x w) (hp : b.phase = 0) (hheld : fill c b < 2) :
    x.latch = false ∧ w = 0 ∧ SameRing b x ∧ x.underrun = true ∧ x.drops = b.drops + 1 := by
  have hl : x.latch = false := by
    rw [← Bool.not_eq_true, h.decides hp]
    omega
  exact ⟨hl, h.silent hl, h.sameRing hl, by rw [h.underrun, if_pos ⟨hp, hheld⟩],
    by rw [h.drops, if_pos ⟨hp, hheld⟩]⟩

/-- The second word of a frame comes from where the first did. -/
theorem EngineOutMoves.second (h : EngineOutMoves c b x w) (hp : b.phase = 1) :
    x.latch = b.latch ∧ x.underrun = b.underrun ∧ x.drops = b.drops ∧
      (b.latch = true → WordDequeued c b x w) ∧ (b.latch = false → w = 0 ∧ SameRing b x) := by
  have hkept : ¬ (b.phase = 0 ∧ fill c b < 2) := by omega
  have hl := h.remembers (by omega)
  exact ⟨hl, by rw [h.underrun, if_neg hkept], by rw [h.drops, if_neg hkept],
    fun hb => h.dequeued (hl.trans hb), fun hb => ⟨h.silent (hl.trans hb), h.sameRing (hl.trans hb)⟩⟩

end

/-- Settles O32: the first word decides for the frame, the second follows it. -/
theorem inputEngineMovesOneWord : Obligations.InputEngineMovesOneWord := by
  intro s b hinv he hd g w
  obtain ⟨x, hrun, hx⟩ := inputEngine_moves hinv he hd
  refine ⟨_, hrun, onlyChanges_setBuf s b x, ?_⟩
  rw [bufOf_setBuf_same]
  exact ⟨hx.binding, hx.winPos, hx.phase, hx.wireOut, hx.underrun, hx.counted, hx.accepts, hx.dropsFrame, hx.second⟩

/-- Settles O33: the first word decides for the frame, the second follows it. -/
theorem outputEngineMovesOneWord : Obligations.OutputEngineMovesOneWord := by
  intro s b hinv he hd g
  obtain ⟨x, w, hrun, hx⟩ := outputEngine_moves hinv he hd
  refine ⟨_, w, hrun, onlyChanges_setBuf s b x, ?_⟩
  rw [bufOf_setBuf_same]
  exact ⟨hx.binding, hx.sent, hx.phase, hx.winPos, hx.overrun, hx.counted, hx.takes, hx.substitutes, hx.second⟩

end Sys2Proof.Machine
end

section
/-! PROOFS. A machine whose buffers satisfy their invariant never stops (43_ringbuffer.md R171 to R173). -/

namespace Sys2Proof.Machine

/-! ## Outcomes that go on -/

/-- The outcome is a next state, no fault and no refusal. -/
def Continues (k : Host.Outcome State Fault Refusal) : Prop := ∃ t, k = .next t

theorem continues_next (t : State) : Continues (.next t) := ⟨t, rfl⟩

theorem continues_ite {p : Prop} [Decidable p] {k k' : Host.Outcome State Fault Refusal} (hk : p → Continues k)
    (hk' : ¬ p → Continues k') : Continues (if p then k else k') := by
  split
  · next h => exact hk h
  · next h => exact hk' h

theorem continues_unlessHalted {s : State} {k : Host.Outcome State Fault Refusal} (hk : Continues k) :
    Continues (unlessHalted s k) :=
  continues_ite (fun _ => continues_next _) (fun _ => hk)

section
variable {s : State} {i : Idx}

/-- Enqueue is guarded by room. -/
theorem continues_enqueueRespond (hn : 0 < (bufCfg s i).n) (w : Word)
    (hroom : ¬ freeWords (bufCfg s i) (bufOf s i) = 0) : Continues (enqueueRespond i w s) := by
  obtain ⟨x, hx⟩ := exists_enqueue hn (Nat.pos_of_ne_zero hroom) w
  exact ⟨_, enqueueRespond_of_enqueue hx⟩

/-- Dequeue is guarded by a held word. -/
theorem continues_dequeueRespond (hn : 0 < (bufCfg s i).n) (hr : RingInv (bufCfg s i) (bufOf s i))
    (hheld : ¬ fill (bufCfg s i) (bufOf s i) = 0) : Continues (dequeueRespond i s) := by
  obtain ⟨v, x, hx⟩ := exists_dequeue hn hr hheld
  exact ⟨_, dequeueRespond_of_dequeue hx⟩

end

/-! ## Each event -/

section
variable {s : State} (hinv : BuffersInv s)
include hinv

/-- Only the four commands that move a word could stop, and their checks come first. -/
theorem exec_continues (instr : Instr) : Continues (exec instr s) := by
  obtain ⟨hv, hbufs⟩ := hinv
  cases instr with
  | rbWr b w | rbWrb b w =>
    refine continues_unlessHalted ?_
    split
    · next i hi =>
      have hn := bufCfg_n_pos hv (selBuf_lt hi)
      exact continues_ite (fun _ => continues_next _) fun _ =>
        continues_ite (fun _ => continues_next _) (continues_enqueueRespond hn w)
    · exact continues_next _
  | rbRd b | rbRdb b =>
    refine continues_unlessHalted ?_
    split
    · next i hi =>
      obtain ⟨hr, -⟩ := hbufs i (selBuf_lt hi)
      have hn := bufCfg_n_pos hv (selBuf_lt hi)
      exact continues_ite (fun _ => continues_next _) fun _ =>
        continues_ite (fun _ => continues_next _) (continues_dequeueRespond hn hr)
    · exact continues_next _
  | csrRd csr =>
    change Continues (execCsrRd csr s)
    unfold execCsrRd
    split <;> exact continues_next _
  | alIn | alOut | syncArm => exact continues_unlessHalted (continues_next _)
  | bqLdc | bqRds | bqStep | bqChain | rbBegin | rbAck | arbClaim | seqEn =>
    refine continues_unlessHalted ?_
    repeat' split
    all_goals exact continues_next _

theorem executeCommand_continues (c : Command) : Continues (executeCommand c s) := by
  unfold executeCommand
  split
  · next i hi => exact exec_continues hinv i
  · exact continues_next _

theorem serve_continues (p : Port) : Continues (serve p s) := by
  unfold serve
  split
  · exact continues_next _
  · next c hc =>
    exact continues_ite (fun _ => continues_next _)
      fun _ => executeCommand_continues (s := setIssuer p s) hinv c

theorem xfer_continues (b : Idx) : Continues (runEvent (.xfer b) s) := by
  cases he : xferEnabled s b with
  | false => exact ⟨s, runEvent_xfer_of_not_enabled he⟩
  | true =>
    cases hd : (bufCfg s b).dir with
    | input =>
      obtain ⟨x, hrun, -⟩ := inputEngine_moves hinv he hd
      exact ⟨_, hrun⟩
    | output =>
      obtain ⟨x, w, hrun, -⟩ := outputEngine_moves hinv he hd
      exact ⟨_, hrun⟩

theorem runEvent_continues (e : Event) : Continues (runEvent e s) := by
  cases e with
  | serve p => exact serve_continues hinv p
  | xfer b => exact xfer_continues hinv b
  | reset | present | arb => exact continues_next _

end

/-- Settles O35: taking the next event keeps the invariant, and then no event stops. -/
theorem noStepStops : Obligations.NoStepStops := by
  intro s hinv
  obtain ⟨agenda, envPos, hnext⟩ := nextEvent_eq_setSchedule s
  simp only [step, hnext]
  exact runEvent_continues (s := setSchedule agenda envPos s) hinv _

end Sys2Proof.Machine
end

section
/-! PROOFS. While no frame is dropped, the ring of an IN buffer holds the last words of the wire in order
(43_ringbuffer.md R189). -/

namespace Sys2Proof.Machine

/-! ## The words of the wire -/

theorem OnlyChanges.era_eq {s t : State} {parts : List Part} (h : OnlyChanges s t parts) (hs : .schedule ∉ parts) :
    t.era = s.era := by
  obtain ⟨-, -, hera⟩ := h .schedule hs
  exact hera

theorem exec_keeps_era {s t : State} (h : ExecEffect s t) : t.era = s.era := by
  cases h with
  | deadlock => exact (onlyChanges_raiseFatal s .deadlock s.issuer).era_eq (by simp)
  | initFailure => exact (onlyChanges_raiseFatal s .transferInitFailure s.issuer).era_eq (by simp)
  | _ => rfl

/-- Only the reset input starts a new era of the wire (log 7). -/
theorem event_keeps_era {s t : State} {e : Event} (h : EventEffect s e t) (he : e ≠ .reset) : t.era = s.era := by
  cases h with
  | reset => exact absurd rfl he
  | serve p c hc hw t h => exact (exec_keeps_era h).trans (setIssuer_era s p)
  | scan => exact (onlyChanges_arbScan s).era_eq (by simp)
  | load => exact (onlyChanges_arbLoad s).era_eq (by simp)
  | record => exact (onlyChanges_arbRecord s).era_eq (by simp)
  | _ => rfl

theorem step_keeps_era {s t : State} (h : step s = .next t) (he : (nextEvent s).1 ≠ .reset) : t.era = s.era := by
  have hera := event_keeps_era (step_effect h) he
  obtain ⟨agenda, envPos, hnext⟩ := nextEvent_eq_setSchedule s
  rwa [hnext] at hera

theorem wireInWord_congr {s t : State} {b : Idx} (hera : t.era = s.era)
    (hwire : (bufOf t b).wireIn = (bufOf s b).wireIn) : wireInWord t b = wireInWord s b := by
  funext k
  simp only [wireInWord, hera, hwire]

/-! ## A ring in the order of its wire -/

/-- `WireInOrder`, of a buffer `b` and the words of its wire. -/
def RingInOrder (c : BufConfig) (wire : Nat → Word) (b : Buffer) : Prop :=
  b.overrun = false →
    b.head = b.winPos % (2 * c.n) ∧ fill c b ≤ b.winPos ∧
    contents c b = (List.range (fill c b)).map (fun k => some (wire (b.winPos - fill c b + k)))

theorem wireInOrder_iff (s : State) (b : Idx) :
    WireInOrder s b ↔ RingInOrder (bufCfg s b) (wireInWord s b) (bufOf s b) := Iff.rfl

theorem ringInOrder_reset (c : BufConfig) (wire : Nat → Word) : RingInOrder c wire Buffer.reset := by
  intro _
  rw [contents, fill_reset]
  simp [Buffer.reset]

section
variable {c : BufConfig} {wire : Nat → Word} {b x : Buffer}

/-- Taking the oldest word leaves the later ones of the wire. -/
theorem RingInOrder.of_dequeue (h : RingInOrder c wire b) (hr : RingInv c b) {w : Word}
    (hx : dequeue c b = .ok (w, x)) : RingInOrder c wire x := by
  intro hover
  have hfill := (dequeues_of_dequeue hx).fill_eq hr
  have hcontents := contents_of_dequeue hr hx
  obtain ⟨-, -, hx⟩ := dequeue_cases c b x w hx
  have hpos : x.winPos = b.winPos := by rw [hx]
  have hhead' : x.head = b.head := by rw [hx]
  obtain ⟨hhead, hle, hwords⟩ := h (by rw [← hover, hx])
  rw [hcontents, ← hfill, List.range_succ_eq_map, List.map_cons, List.map_map, List.cons.injEq] at hwords
  obtain ⟨-, hrest⟩ := hwords
  refine ⟨by rw [hhead', hpos, hhead], by omega, hrest.trans (List.map_congr_left fun k _ => ?_)⟩
  have hk : b.winPos - (fill c x + 1) + (k + 1) = x.winPos - fill c x + k := by omega
  simp only [Function.comp_apply, hk]

/-- A frame that was not dropped is being taken: its words are enqueued, first and second. -/
theorem EngineInMoves.latch_of_not_dropped {w : Word} (hx : EngineInMoves c b x w) (hd : c.dir = .input)
    (hi : EngineInv c b) (hhead : b.head = b.winPos % (2 * c.n))
    (hkept : ¬ (b.phase = 0 ∧ freeWords c b < 2)) : x.latch = true := by
  by_cases hfirst : b.phase = 0
  · exact (hx.decides hfirst).mpr (by omega)
  · obtain ⟨hphase, -, -, hin, -⟩ := hi
    obtain ⟨hparity, hpos, -⟩ := hin hd
    have hodd : b.head % 2 = 1 := by
      rw [hhead, Nat.mod_mul_right_mod]
      omega
    rw [hx.remembers hfirst]
    by_contra hl
    simp [hl, hodd] at hparity

/-- A word of an IN engine is enqueued behind those of the wire before it, unless its frame is dropped. -/
theorem RingInOrder.of_engine (h : RingInOrder c wire b) (hd : c.dir = .input) (hr : RingInv c b) (hi : EngineInv c b)
    (hx : EngineInMoves c b x (wire b.winPos)) : RingInOrder c wire x := by
  intro hover
  have hkept : ¬ (b.phase = 0 ∧ freeWords c b < 2) := by
    intro hdrop
    rw [hx.overrun, if_pos hdrop] at hover
    cases hover
  rw [hx.overrun, if_neg hkept] at hover
  obtain ⟨hhead, hle, hwords⟩ := h hover
  have hl := hx.latch_of_not_dropped hd hi hhead hkept
  have hput : Enqueues c b x := by simpa [hl] using hx.ring
  have hfill := hput.fill_eq hr
  have hcontents := hput.contents_eq hr (hx.enqueued hl)
  obtain ⟨-, -, -, hadvance, -⟩ := hput
  refine ⟨?_, ?_, ?_⟩
  · rw [hadvance, hx.winPos, hhead, advance, Nat.mod_add_mod]
  · rw [hx.winPos]
    omega
  · rw [hcontents, hwords, hfill, hx.winPos, Nat.add_sub_add_right, List.range_succ, List.map_append,
      List.map_singleton, Nat.sub_add_cancel hle]

end

/-! ## Every step -/

section
variable {s t : State} {b : Idx} (hd : (bufCfg s b).dir = .input)
include hd

/-- Apart from its engine nothing but reset and reading touches the ring of an IN buffer, and nothing its wire. -/
theorem BufferEffect.ringInOrder {e : Event} {x : Buffer} {wire : Nat → Word} (h : BufferEffect s b e x)
    (he : e ≠ .xfer b) (hr : RingInv (bufCfg s b) (bufOf s b))
    (hw : RingInOrder (bufCfg s b) wire (bufOf s b)) : RingInOrder (bufCfg s b) wire x := by
  cases h with
  | reset => exact ringInOrder_reset _ _
  | take p _ w x hx => exact hw.of_dequeue hr hx
  | same | bind | ack => exact hw
  | write p ho => simp [hd] at ho
  | engineIn | engineOut => exact absurd rfl he

theorem BufferEffect.wireIn_eq {e : Event} {x : Buffer} (h : BufferEffect s b e x) (he : e ≠ .xfer b)
    (hreset : e ≠ .reset) : x.wireIn = (bufOf s b).wireIn := by
  cases h with
  | reset => exact absurd rfl hreset
  | take p _ w x hx => rw [dequeue_frame hx]
  | same | bind | ack => rfl
  | write p ho => simp [hd] at ho
  | engineIn | engineOut => exact absurd rfl he

/-- An event of the engine moves a word of the wire, or finds nothing to do. -/
theorem step_of_inputEngine (hstep : step s = .next t) (he : (nextEvent s).1 = .xfer b) :
    bufOf t b = bufOf s b ∨
      EngineInMoves (bufCfg s b) (bufOf s b) (bufOf t b) (wireInWord s b (bufOf s b).winPos) := by
  have heffect := step_effect hstep
  obtain ⟨agenda, envPos, hnext⟩ := nextEvent_eq_setSchedule s
  rw [he, hnext] at heffect
  cases heffect with
  | nothing => exact .inl rfl
  | engineIn _ _ _ x hx =>
    rw [bufOf_setBuf_same]
    exact .inr (engineIn_moves hx)
  | engineOut _ _ ho => simp [hd] at ho

end

/-- Settles O36: the engine appends the next word of the wire, a read takes the oldest, and no other event but reset
touches the ring. -/
theorem wireWordsStayInOrder : Obligations.WireWordsStayInOrder := by
  rintro s t b ⟨-, hbufs⟩ hb hd hw hstep
  obtain ⟨hr, hi⟩ := hbufs b hb
  have hcfg : bufCfg t b = bufCfg s b := by simp only [bufCfg, step_keeps_cfg hstep]
  rw [wireInOrder_iff] at hw ⊢
  rw [hcfg]
  by_cases hreset : (nextEvent s).1 = .reset
  · rw [step_of_reset hstep hreset, bufOf_resetInput]
    exact ringInOrder_reset _ _
  have hera := step_keeps_era hstep hreset
  by_cases hxfer : (nextEvent s).1 = .xfer b
  · rcases step_of_inputEngine hd hstep hxfer with hsame | hmoves
    · rw [wireInWord_congr hera (by rw [hsame]), hsame]
      exact hw
    · rw [wireInWord_congr hera hmoves.wireIn]
      exact hw.of_engine hd hr hi hmoves
  · have heffect := step_bufferEffect hstep b
    rw [wireInWord_congr hera (heffect.wireIn_eq hd hxfer hreset)]
    exact heffect.ringInOrder hd hxfer hr hw

end Sys2Proof.Machine
end

section
/-! PROOFS. Width alignment: the words AL.IN and AL.OUT answer, and the end-to-end frame through identity chains
(44_sync_and_loop.md R205 to R208). -/

namespace Sys2Proof.Machine

/-- A command whose only effect is its response reads. -/
theorem reads_of_respondOk {i : Instr} {s : State} {v : Word} (h : exec i s = .next (respondOk v s)) :
    Reads i s v :=
  ⟨_, h, answered_respondTo s.issuer .ok v s, onlyChanges_respondTo s.issuer .ok v s⟩

/-! ## AL.IN (44_sync_and_loop.md R205) -/

theorem exec_alIn {s : State} (hh : s.halt = false) (w : Word) :
    exec (.alIn w) s = .next (respondOk (alignIn s.cfg w) s) :=
  unlessHalted_of_running hh _

/-- Aligning a received word is the arithmetic shift of bit vectors. -/
theorem alignIn_eq_sshiftRight (c : Config) (w : Word) : alignIn c w = w.sshiftRight c.inShift := by
  rw [alignIn, asr, wrap, s32, BitVec.sshiftRight, Int.shiftRight_eq_div_pow]
  push_cast
  rfl

/-- Settles O20: an arithmetic right shift is a division by a power of two that rounds toward minus infinity. -/
theorem alInShiftsRight : Obligations.AlInShiftsRight := by
  intro s w hh
  refine ⟨alignIn s.cfg w, reads_of_respondOk (exec_alIn hh w), ?_, fun hzero => ?_⟩
  · rw [alignIn_eq_sshiftRight, BitVec.toInt_sshiftRight, Int.shiftRight_eq_div_pow]
    push_cast
    rfl
  · rw [alignIn_eq_sshiftRight, hzero, BitVec.sshiftRight_zero]

/-! ## AL.OUT (44_sync_and_loop.md R206) -/

theorem exec_alOut {s : State} (hh : s.halt = false) (v : Word) :
    exec (.alOut v) s = .next (respondOk (alignOut s.cfg v) s) :=
  unlessHalted_of_running hh _

/-- Wrapping to a word changes an integer by a multiple of 2^32 (00_scope.md R5). -/
theorem wrap32_toInt_congr (z : Int) : ((wrap 32 z).toInt - z) % 2 ^ 32 = 0 := by
  rw [wrap, BitVec.toInt_ofInt]
  exact Int.emod_eq_zero_of_dvd Int.dvd_bmod_sub_self

/-- Wrapping to a word keeps exactly the integers that fit one. -/
theorem wrap32_toInt_eq_iff {z : Int} : (wrap 32 z).toInt = z ↔ -(2 ^ 31) ≤ z ∧ z < 2 ^ 31 := by
  constructor
  · intro h
    rw [← h]
    exact ⟨(wrap 32 z).le_toInt, (wrap 32 z).toInt_lt⟩
  · exact fun ⟨hlo, hhi⟩ => wrap32_toInt hlo hhi

/-- A product by 2^k fits a word exactly when the factor fits 32 − k bits. -/
theorem mul_pow_in_word_iff {k : Nat} (hk : k ≤ 31) (z : Int) :
    (-(2 ^ 31) ≤ z * 2 ^ k ∧ z * 2 ^ k < 2 ^ 31) ↔ -(2 ^ (31 - k)) ≤ z ∧ z ≤ 2 ^ (31 - k) - 1 := by
  have hpos : (0 : Int) < 2 ^ k := by positivity
  have hsplit : (2 : Int) ^ 31 = 2 ^ (31 - k) * 2 ^ k := by rw [← pow_add, Nat.sub_add_cancel hk]
  rw [hsplit, ← neg_mul, mul_le_mul_iff_left₀ hpos, mul_lt_mul_iff_left₀ hpos, Int.le_sub_one_iff]

/-- Settles O21: the answer wraps the exact product to 32 bits, which keeps it exactly when it fits. -/
theorem alOutShiftsLeft : Obligations.AlOutShiftsLeft := by
  intro s v hh hshift
  exact ⟨alignOut s.cfg v, reads_of_respondOk (exec_alOut hh v), wrap32_toInt_congr _,
    wrap32_toInt_eq_iff.trans (mul_pow_in_word_iff hshift v.toInt)⟩

/-! ## The end-to-end frame (44_sync_and_loop.md R208) -/

/-- Every stage of every chain is an identity filter with its remainder in range. -/
def IdentityChains (s : State) : Prop :=
  ∀ (ch : Chan) (i : Idx), i.val < s.cfg.nSt[ch] →
    IdentityStage s.cfg (stageOf s ch i) ∧ (stageOf s ch i).rem < 2 ^ s.cfg.q

/-- What the commands of the end-to-end frame need and keep. -/
structure EndToEndReady (s : State) : Prop where
  valid : s.cfg.Valid
  inShift : s.cfg.inShift = 8
  outShift : s.cfg.outShift = 7
  running : s.halt = false
  chains : IdentityChains s

/-- The command answers OK with `v` on the issuing slot, in a state that is ready for the next one. -/
def AnswersReady (i : Instr) (v : Word) (s : State) : Prop :=
  ∃ t, exec i s = .next t ∧ EndToEndReady t ∧ t.issuer = s.issuer ∧ t.trace = s.trace ++ [⟨s.issuer, .ok, v⟩]

/-- Commands that each answer in every ready state answer one after the other. -/
theorem execAll_of_answersReady {l : List (Instr × Word)}
    (hl : ∀ e ∈ l, ∀ s, EndToEndReady s → AnswersReady e.1 e.2 s) :
    ∀ s, EndToEndReady s → ∃ t, execAll (l.map Prod.fst) s = .next t ∧
      t.trace = s.trace ++ l.map fun e => ⟨s.issuer, .ok, e.2⟩ := by
  induction l with
  | nil => exact fun s _ => ⟨s, rfl, by simp⟩
  | cons e rest ih =>
    intro s hs
    obtain ⟨hfirst, hrest⟩ := List.forall_mem_cons.mp hl
    obtain ⟨t, hexec, ht, hissuer, htrace⟩ := hfirst s hs
    obtain ⟨u, hafter, hu⟩ := ih hrest t ht
    refine ⟨u, ?_, ?_⟩
    · simpa only [List.map_cons, execAll, hexec] using hafter
    · rw [hu, htrace, hissuer]
      simp

section
variable {s : State} (hs : EndToEndReady s)
include hs

/-- A response by itself leaves the state ready. -/
theorem EndToEndReady.answers_of_respondOk {i : Instr} {v : Word} (h : exec i s = .next (respondOk v s)) :
    AnswersReady i v s :=
  ⟨_, h, ⟨hs.valid, hs.inShift, hs.outShift, hs.running, hs.chains⟩, rfl, rfl⟩

theorem EndToEndReady.answers_alIn {w v : Word} (hv : wrap 32 (asr (s32 w) 8) = v) : AnswersReady (.alIn w) v s := by
  refine hs.answers_of_respondOk ?_
  rw [exec_alIn hs.running, alignIn, hs.inShift, hv]

theorem EndToEndReady.answers_alOut {v w : Word} (hw : wrap 32 (s32 v * 2 ^ 7) = w) :
    AnswersReady (.alOut v) w s := by
  refine hs.answers_of_respondOk ?_
  rw [exec_alOut hs.running, alignOut, hs.outShift, hw]

end

theorem coefsKept_afterChain (s : State) (ch : Chan) (x : Word) : CoefsKept s (afterChain s ch x) :=
  coefsKept_setChannel (sameCoefs_chainRun s.cfg _ (s.filt[ch]) x)

section
variable {s : State} (hq : s.cfg.q ≤ 30) (hid : IdentityChains s) (ch : Chan) (x : Word)
include hq hid

/-- A chain of identity stages answers its input and keeps every remainder of both channels. -/
theorem afterChain_of_identity :
    (chainRun s.cfg (s.filt[ch]) (below s.cfg.nSt[ch]) x).2 = x ∧
      ∀ ch' i, (stageOf (afterChain s ch x) ch' i).rem = (stageOf s ch' i).rem := by
  obtain ⟨hout, hrems⟩ := chainRun_of_identity hq (below s.cfg.nSt[ch]) x (s.filt[ch])
    fun i hi => hid ch i (mem_below.mp hi)
  refine ⟨hout, fun ch' i => ?_⟩
  rw [afterChain, stageOf_respondOk_other, stageOf_setChannel]
  split
  · next h => subst h; exact hrems i
  · rfl

theorem identityChains_afterChain : IdentityChains (afterChain s ch x) := fun ch' i hi => by
  obtain ⟨hstage, hrem⟩ := hid ch' i hi
  obtain ⟨-, hrems⟩ := afterChain_of_identity hq hid ch x
  exact ⟨(coefsKept_afterChain s ch x ch' i).identityStage hstage, (hrems ch' i).trans_lt hrem⟩

end

theorem EndToEndReady.answers_bqChain {s : State} (hs : EndToEndReady s) {ch : BitVec 4} {ch' : Chan}
    (hch : ch.toNat = ch'.val) (x : Word) : AnswersReady (.bqChain ch x) x s := by
  obtain ⟨⟨-, hq⟩, -⟩ := hs.valid
  obtain ⟨hout, -⟩ := afterChain_of_identity hq hs.chains ch' x
  have hloaded : chainLoaded s ch' = true := (chainLoaded_iff s ch').mpr fun i hi => (hs.chains ch' i hi).1.2
  have htrace := (answered_afterChain s ch' x).2
  rw [hout] at htrace
  exact ⟨afterChain s ch' x, exec_bqChain_of_loaded hs.running hch x hloaded,
    ⟨hs.valid, hs.inShift, hs.outShift, hs.running, identityChains_afterChain hq hs.chains ch' x⟩, rfl, htrace⟩

/-- The commands of the source's end-to-end frame with the words they answer, left and right in turn. -/
def frameCommands : List (Instr × Word) :=
  [(.alIn 0x7FFFFF00, 0x007FFFFF), (.alIn 0x80000000, 0xFF800000),
   (.bqChain 0 0x007FFFFF, 0x007FFFFF), (.bqChain 1 0xFF800000, 0xFF800000),
   (.alOut 0x007FFFFF, 0x3FFFFF80), (.alOut 0xFF800000, 0xC0000000)]

/-- Settles O22: each command answers its word in every ready state and leaves the state ready. -/
theorem endToEndFrame : Obligations.EndToEndFrame := by
  intro s hc hin hout hh hid
  refine execAll_of_answersReady (l := frameCommands) ?_ s ⟨hc, hin, hout, hh, hid⟩
  simp only [frameCommands, List.forall_mem_cons]
  exact ⟨fun _ hs => hs.answers_alIn (by decide), fun _ hs => hs.answers_alIn (by decide),
    fun _ hs => hs.answers_bqChain (ch := 0) (ch' := 0) rfl _,
    fun _ hs => hs.answers_bqChain (ch := 1) (ch' := 1) rfl _,
    fun _ hs => hs.answers_alOut (by decide), fun _ hs => hs.answers_alOut (by decide), by simp⟩

end Sys2Proof.Machine
end

section
/-! PROOFS. The synchronized start: what SEQ.EN does to one unit, and SYNC.ARM to all of them
(44_sync_and_loop.md R201, R203). -/

namespace Sys2Proof.Machine

/-! ## SEQ.EN (44_sync_and_loop.md R201) -/

/-- SEQ.EN on a unit that exists enables it or refuses, as the unit is CLAIMED or not. -/
theorem exec_seqEn {s : State} {blk u : BitVec 4} {x : UnitId} (hh : s.halt = false) (hblk : blk.toNat = x.blk.val)
    (hu : u.toNat = x.u.val) (hx : x.u.val < s.cfg.u) :
    exec (.seqEn blk u) s =
      .next (if unitStateOf s x = .claimed then respondOk 0 (setUnit s x .waiting) else refuse .badstate s) := by
  refine (unlessHalted_of_running hh _).trans ?_
  simp only [selUnit_of hblk hu hx]
  split <;> rfl

/-- Settles O45: a CLAIMED unit is written once and the command answered; any other is refused. -/
theorem seqEnEnablesAClaimedUnit : Obligations.SeqEnEnablesAClaimedUnit := by
  intro s blk u x hh hblk hu hx
  rw [IsRefused, exec_seqEn hh hblk hu hx]
  constructor
  · intro hclaimed
    rw [if_pos hclaimed]
    refine ⟨_, rfl, answered_respondOk_of 0 (setUnit_issuer s x _) (setUnit_trace s x _),
      onlyChanges_respondOk_of 0 (setUnit_issuer s x _) (onlyChanges_setUnit s x .waiting), ?_⟩
    rw [unitStateOf_respondOk_other, unitStateOf_setUnit, if_pos rfl]
  · intro hother
    rw [if_neg hother]
    exact ⟨_, rfl, refused_refuse .badstate s⟩

/-! ## SYNC.ARM (44_sync_and_loop.md R203) -/

theorem exec_syncArm {s : State} (hh : s.halt = false) :
    exec .syncArm s = .next (respondOk (BitVec.ofNat 32 (waitingCount s)) (startAll s)) :=
  unlessHalted_of_running hh _

theorem nodup_allUnits (c : Config) : (allUnits c).Nodup :=
  (pairwise_allUnits c).imp fun hbefore heq => by
    subst heq
    simp [ScansBefore] at hbefore

/-- A unit as the pair of its block and its number in the block. -/
def UnitId.pair (x : UnitId) : Blk × Idx := (x.blk, x.u)

theorem UnitId.pair_injective : Function.Injective UnitId.pair
  | ⟨_, _⟩, ⟨_, _⟩, rfl => rfl

/-- The units that exist and are WAITING, as pairs of block and number. -/
def waitingUnits (s : State) : Finset (Blk × Idx) :=
  Finset.univ.filter fun y => y.2.val < s.cfg.u ∧ unitStateOf s ⟨y.1, y.2⟩ = .waiting

/-- The scan order lists each unit once, so counting along it counts the WAITING units. -/
theorem waitingCount_eq_card (s : State) : waitingCount s = (waitingUnits s).card := by
  rw [waitingCount, ← List.length_map UnitId.pair,
    ← List.toFinset_card_of_nodup (((nodup_allUnits s.cfg).filter _).map UnitId.pair_injective)]
  congr 1
  ext ⟨k, u⟩
  simp only [List.mem_toFinset, List.mem_map, List.mem_filter, mem_allUnits, decide_eq_true_eq, waitingUnits,
    Finset.mem_filter, Finset.mem_univ, true_and]
  exact ⟨fun ⟨_, hx, hpair⟩ => by cases hpair; exact hx, fun h => ⟨⟨k, u⟩, h, rfl⟩⟩

theorem waitingCount_le (s : State) : waitingCount s ≤ 32 := by
  rw [waitingCount_eq_card]
  exact (waitingUnits s).card_le_univ

/-- Starting the units touches units and the start gate only. -/
theorem unchanged_startAll (s : State) {part : Part} (hunit : ∀ x, part ≠ .unit x) (harmed : part ≠ .armed) :
    unchanged s (startAll s) part := by
  cases part with
  | unit x => exact absurd rfl (hunit x)
  | armed => exact absurd rfl harmed
  | entry k p => exact entryOf_startAll s k p
  | occupancy k => exact occupancy_startAll s k
  | _ => simp [unchanged]

/-- Settles O46: `startAll` writes all units at once, and the answer counts each WAITING one once. -/
theorem syncArmStartsEveryWaitingUnit : Obligations.SyncArmStartsEveryWaitingUnit := by
  intro s hh
  refine ⟨_, _, exec_syncArm hh, answered_respondOk_of _ rfl rfl, ?_, rfl, fun x hx hwaiting => ?_, fun x hx => ?_,
    fun part hunit hpart => ?_⟩
  · have hle := waitingCount_le s
    rw [BitVec.toNat_ofNat, Nat.mod_eq_of_lt (by omega)]
    exact waitingCount_eq_card s
  · rw [unitStateOf_respondOk_other, unitStateOf_startAll, if_pos ⟨hx, hwaiting⟩]
  · rw [unitStateOf_respondOk_other, unitStateOf_startAll, if_neg hx]
  · simp only [List.mem_cons, List.not_mem_nil, or_false, not_or] at hpart
    obtain ⟨harmed, hslot, htrace⟩ := hpart
    exact unchanged_trans part (unchanged_startAll s hunit harmed)
      (onlyChanges_respondTo s.issuer .ok _ (startAll s) part (by simp [hslot, htrace]))

end Sys2Proof.Machine
end

section
/-! PROOFS. CSR.RD: which register each number names, the words that registers read as, and the numbers that are
not implemented (45_system.md R220 to R225). -/

namespace Sys2Proof.Machine

/-! ## The command (45_system.md R220) -/

/-- Reading an implemented number answers the register's value, in HALT too. -/
theorem reads_csrRd {s : State} {csr : BitVec 12} {r : Csr} (h : selCsr s.cfg csr = some r) :
    Reads (.csrRd csr) s (csrValue s r) := by
  refine reads_of_respondOk ?_
  change execCsrRd csr s = _
  rw [execCsrRd, h]

/-! ## The numbers (45_system.md R221 to R223) -/

theorem selCsr_unitState (c : Config) : ∀ k : Blk, selCsr c (BitVec.ofNat 12 (0x010 + k.val)) = some (.unitState k)
  | 0 => rfl
  | 1 => rfl

theorem selCsr_imemUsed (c : Config) : ∀ k : Blk, selCsr c (BitVec.ofNat 12 (0x012 + k.val)) = some (.imemUsed k)
  | 0 => rfl
  | 1 => rfl

theorem selCsr_loadCount (c : Config) : ∀ k : Blk, selCsr c (BitVec.ofNat 12 (0x014 + k.val)) = some (.loadCount k)
  | 0 => rfl
  | 1 => rfl

theorem selTable_of_lt {c : Config} {p : Idx} (hp : p.val < c.nProg) (k : Blk) :
    selTable c k p.val = some (.table k p) := by
  rw [selTable, dif_pos p.isLt, if_pos hp]

/-- The sixteen `TABLE` numbers of a block follow those of the block before. -/
theorem selCsr_table {c : Config} {p : Idx} (hp : p.val < c.nProg) (k : Blk) :
    selCsr c (BitVec.ofNat 12 (0x020 + 0x10 * k.val + p.val)) = some (.table k p) := by
  have hnum : (BitVec.ofNat 12 (0x020 + 0x10 * k.val + p.val)).toNat = 0x020 + 0x10 * k.val + p.val :=
    Nat.mod_eq_of_lt (by omega)
  simp only [selCsr, hnum]
  iterate 10 rw [if_neg (by omega)]
  match k with
  | 0 =>
    rw [if_pos (by simp; omega)]
    simpa using selTable_of_lt hp 0
  | 1 =>
    rw [if_neg (by simp), if_pos (by simp; omega)]
    simpa using selTable_of_lt hp 1

/-- Each buffer has eight numbers, one for each of its registers. -/
theorem selCsr_buffer {c : Config} {b : Idx} (hb : b.val < c.nBuf) {r : Nat} (hr : r < 8) :
    selCsr c (BitVec.ofNat 12 (0x100 + 8 * b.val + r)) = some (selRbCsr b r) := by
  have hnum : (BitVec.ofNat 12 (0x100 + 8 * b.val + r)).toNat = 0x100 + 8 * b.val + r :=
    Nat.mod_eq_of_lt (by omega)
  have hdiv : (0x100 + 8 * b.val + r - 0x100) / 8 = b.val := by omega
  have hmod : (0x100 + 8 * b.val + r - 0x100) % 8 = r := by omega
  simp only [selCsr, hnum, hdiv, hmod]
  iterate 12 rw [if_neg (by omega)]
  rw [if_pos (by omega), dif_pos b.isLt, if_pos hb]

/-! ## Packed words -/

theorem packField_of_lt {lo width v : Nat} (h : v < 2 ^ width) : packField lo width v = v * 2 ^ lo := by
  rw [packField, Nat.mod_eq_of_lt h]

theorem packBit_eq (lo : Nat) (v : Bool) : packBit lo v = v.toNat * 2 ^ lo :=
  packField_of_lt v.toNat_lt

theorem toNat_packWordOf {fields : List Nat} (h : fields.sum < 2 ^ 32) : (packWordOf fields).toNat = fields.sum := by
  rw [packWordOf, BitVec.toNat_ofNat, Nat.mod_eq_of_lt h]

/-- A word that is one field at bit 0. -/
theorem toNat_packWordOf_single {width v : Nat} (hw : width ≤ 32) (h : v < 2 ^ width) :
    (packWordOf [packField 0 width v]).toNat = v := by
  have hsum : [packField 0 width v].sum = v := by simp [packField_of_lt h]
  have hfits : v < 2 ^ 32 := h.trans_le (Nat.pow_le_pow_right (by omega) hw)
  rw [toNat_packWordOf (by rwa [hsum]), hsum]

/-! ## The global registers (45_system.md R221) -/

theorem arbCode_lt (a : ArbState) : arbCode a < 2 ^ 2 := by cases a <;> decide

theorem toNat_csrSysStatus (s : State) :
    (csrSysStatus s).toNat = s.halt.toNat + s.errCode.toNat * 2 ^ 8 + s.errCore.val * 2 ^ 16 := by
  have hhalt := s.halt.toNat_lt
  have hcode := s.errCode.isLt
  have hcore := s.errCore.isLt
  rw [csrSysStatus, packBit_eq, packField_of_lt hcode, packField_of_lt hcore, toNat_packWordOf] <;>
    simp only [List.sum_cons, List.sum_nil] <;> omega

theorem toNat_csrLock (s : State) :
    (csrLock s).toNat = s.lock.held.toNat + (if s.lock.held then s.lock.owner.val else 0) * 2 := by
  have hheld := s.lock.held.toNat_lt
  have howner : (if s.lock.held then s.lock.owner.val else 0) < 2 ^ 1 := by split <;> omega
  rw [csrLock, packBit_eq, packField_of_lt howner, toNat_packWordOf] <;>
    simp only [List.sum_cons, List.sum_nil] <;> omega

/-- Settles O48: each of the four numbers names a register whose fields do not overlap. -/
theorem globalCsrMap : Obligations.GlobalCsrMap := by
  intro s
  exact ⟨_, _, _, _, reads_csrRd (r := .sysStatus) rfl, reads_csrRd (r := .lock) rfl,
    reads_csrRd (r := .arbState) rfl, reads_csrRd (r := .sync) rfl, toNat_csrSysStatus s, toNat_csrLock s,
    toNat_packWordOf_single (by omega) (arbCode_lt s.arbState),
    toNat_packWordOf_single (by omega) s.armed.toNat_lt⟩

/-! ## The registers of a block (45_system.md R222) -/

theorem unitCode_lt (x : UnitState) : unitCode x < 4 := by cases x <;> decide

/-- Two-bit fields of the units below `n`, side by side from bit 0. -/
def packPairs (n : Nat) (code : Idx → Nat) : Nat :=
  ((below n).map fun u => packField (2 * u.val) 2 (code u)).sum

theorem below_succ : ∀ u : Idx, below (u.val + 1) = below u.val ++ [u] := by decide

theorem packPairs_succ (u : Idx) {code : Idx → Nat} (hcode : code u < 4) :
    packPairs (u.val + 1) code = packPairs u.val code + code u * 4 ^ u.val := by
  simp only [packPairs, below_succ, List.map_append, List.map_cons, List.map_nil, List.sum_append, List.sum_cons,
    List.sum_nil, add_zero]
  rw [packField_of_lt (width := 2) hcode, pow_mul]
  rfl

/-- Adding at a higher place leaves a base-4 digit. -/
theorem digit_add_mul_pow (x c : Nat) {i n : Nat} (hi : i < n) : (x + c * 4 ^ n) / 4 ^ i % 4 = x / 4 ^ i % 4 := by
  obtain ⟨d, rfl⟩ := Nat.exists_eq_add_of_lt hi
  have hshift : c * 4 ^ (i + d + 1) = 4 ^ i * (4 * (c * 4 ^ d)) := by ring
  rw [hshift, Nat.add_mul_div_left _ _ (by positivity), Nat.add_mul_mod_self_left]

/-- The base-4 digits of the packed pairs are the codes, one after the other. -/
theorem packPairs_digits {code : Idx → Nat} (hcode : ∀ u, code u < 4) :
    ∀ n ≤ 16, packPairs n code < 4 ^ n ∧ ∀ u : Idx, u.val < n → packPairs n code / 4 ^ u.val % 4 = code u
  | 0, _ => ⟨by simp [packPairs, below], fun u hu => absurd hu (by omega)⟩
  | n + 1, hn => by
    obtain ⟨hlt, hdigits⟩ := packPairs_digits hcode n (by omega)
    have hnew : code ⟨n, hn⟩ < 4 := hcode _
    have hstep : packPairs (n + 1) code = packPairs n code + code ⟨n, hn⟩ * 4 ^ n := packPairs_succ ⟨n, hn⟩ hnew
    have hplace : code ⟨n, hn⟩ * 4 ^ n ≤ 3 * 4 ^ n := Nat.mul_le_mul_right _ (by omega)
    rw [hstep]
    refine ⟨by omega, fun u hu => ?_⟩
    rcases Nat.lt_succ_iff_lt_or_eq.mp hu with hold | rfl
    · rw [digit_add_mul_pow _ _ hold]
      exact hdigits u hold
    · rw [Nat.add_mul_div_right _ _ (by positivity), Nat.div_eq_of_lt hlt, zero_add, Nat.mod_eq_of_lt hnew]

/-- Two bits per existing unit are at most 32 bits, so the word's base-4 digits are the units' codes. -/
theorem csrUnitState_digits {s : State} (hc : s.cfg.Valid) (k : Blk) :
    (csrUnitState s k).toNat < 4 ^ s.cfg.u ∧
      ∀ u : Idx, u.val < s.cfg.u → (csrUnitState s k).toNat / 4 ^ u.val % 4 = unitCode (unitStateOf s ⟨k, u⟩) := by
  obtain ⟨-, -, ⟨-, hu⟩, -⟩ := hc
  have hdigits := packPairs_digits (fun u => unitCode_lt (unitStateOf s ⟨k, u⟩)) s.cfg.u hu
  have hword : (csrUnitState s k).toNat = packPairs s.cfg.u fun u => unitCode (unitStateOf s ⟨k, u⟩) :=
    toNat_packWordOf (hdigits.1.trans_le (Nat.pow_le_pow_right (by omega) hu))
  rwa [hword]

theorem toNat_csrTable (e : TableEntry) :
    (csrTable e).toNat = e.valid.toNat * 2 ^ 31 + e.len.toNat * 2 ^ 8 + e.offset.toNat := by
  have hvalid := e.valid.toNat_lt
  have hlen := e.len.isLt
  have hoffset := e.offset.isLt
  rw [csrTable, packBit_eq, packField_of_lt hlen, packField_of_lt hoffset, toNat_packWordOf] <;>
    simp only [List.sum_cons, List.sum_nil] <;> omega

/-- Settles O49: the units' codes are the digits of one word; the other registers have fields that fit. -/
theorem blockCsrMap : Obligations.BlockCsrMap := by
  intro s k hc
  have hm : s.cfg.m ≤ 255 := by
    obtain ⟨-, -, -, ⟨-, hm⟩, -⟩ := hc
    exact hm
  refine ⟨⟨_, reads_csrRd (selCsr_unitState s.cfg k), csrUnitState_digits hc k⟩, fun hused => ?_,
    reads_csrRd (selCsr_loadCount s.cfg k), fun p hp => ?_⟩
  · exact ⟨_, reads_csrRd (selCsr_imemUsed s.cfg k), toNat_packWordOf_single (by omega) (by omega)⟩
  · exact ⟨_, reads_csrRd (selCsr_table hp k), toNat_csrTable (entryOf s k p)⟩

/-! ## The registers of a ring buffer (45_system.md R223) -/

theorem dirCode_lt (d : Dir) : dirCode d < 2 ^ 1 := by cases d <;> decide

theorem toNat_csrRbStatus (c : BufConfig) {b : Buffer} (hphase : b.phase < 2) :
    (csrRbStatus c b).toNat = b.bound.toNat + dirCode c.dir * 2 + b.irqPend.toNat * 2 ^ 2 +
      b.overrun.toNat * 2 ^ 3 + b.underrun.toNat * 2 ^ 4 + b.cbEn.toNat * 2 ^ 5 + b.irqCore.val * 2 ^ 6 +
      b.latch.toNat * 2 ^ 7 + b.phase * 2 ^ 8 := by
  have hbound := b.bound.toNat_lt
  have hdir := dirCode_lt c.dir
  have hpend := b.irqPend.toNat_lt
  have hoverrun := b.overrun.toNat_lt
  have hunderrun := b.underrun.toNat_lt
  have hcbEn := b.cbEn.toNat_lt
  have hcore := b.irqCore.isLt
  have hlatch := b.latch.toNat_lt
  simp only [csrRbStatus, packBit_eq, packField_of_lt hdir, packField_of_lt (width := 1) hcore,
    packField_of_lt (width := 4) (hphase.trans (by decide))]
  rw [toNat_packWordOf] <;> simp only [List.sum_cons, List.sum_nil] <;> omega

theorem toNat_csrRbTrig {b : Buffer} (hcount : b.ucount < 2 ^ 16) :
    (csrRbTrig b).toNat = b.trig.u.val + b.trig.blk.val * 2 ^ 4 + b.ucount * 2 ^ 16 := by
  have hu := b.trig.u.isLt
  have hblk := b.trig.blk.isLt
  rw [csrRbTrig, packField_of_lt hu, packField_of_lt (width := 4) (hblk.trans (by decide)),
    packField_of_lt hcount, toNat_packWordOf] <;> simp only [List.sum_cons, List.sum_nil] <;> omega

/-- Settles O50: a ring holds at most 2^15 words, so its indices and counters fit their fields. -/
theorem bufferCsrMap : Obligations.BufferCsrMap := by
  intro s b ⟨hc, hinv⟩ hb g at_
  obtain ⟨-, -, -, -, -, -, hbufs, -, -⟩ := hc
  obtain ⟨-, -, hn, -, -, hunit⟩ := hbufs b hb
  obtain ⟨⟨hhead, htail, hfill, -⟩, hphase, hcount, -⟩ := hinv b hb
  simp only [bufCfg] at hhead htail hfill hcount
  have hreads : ∀ r < 8, Reads (at_ r) s (csrValue s (selRbCsr b r)) := fun r hr => reads_csrRd (selCsr_buffer hb hr)
  exact ⟨_, _, _, _, _, hreads 0 (by omega), hreads 1 (by omega), hreads 2 (by omega), hreads 3 (by omega),
    hreads 4 (by omega), hreads 5 (by omega), hreads 6 (by omega), hreads 7 (by omega),
    toNat_csrRbStatus (bufCfg s b) hphase,
    toNat_packWordOf_single (by omega) (by omega), toNat_packWordOf_single (by omega) (by omega),
    toNat_packWordOf_single (by omega) (by simp only [bufCfg]; omega), toNat_csrRbTrig (by omega)⟩

/-! ## Numbers that are not implemented (45_system.md R225) -/

/-- Settles O51: the numbers of the list name a register each, and every other number is ill-formed. -/
theorem unimplementedCsrsAreBadsel : Obligations.UnimplementedCsrsAreBadsel := by
  intro s csr hc n implemented
  have hlist : implemented ↔ s.cfg.hasCsr n = true := by
    obtain ⟨-, -, -, -, ⟨hProg, -⟩, ⟨hBuf, -⟩, -⟩ := hc
    simp only [implemented, Config.hasCsr, Bool.or_eq_true, decide_eq_true_eq]
    omega
  rw [hlist]
  refine ⟨fun hin => ?_, fun hout => ?_⟩
  · obtain ⟨r, hr⟩ := Option.isSome_iff_exists.mp (selCsr_of_hasCsr s.cfg hc hin)
    exact ⟨_, reads_csrRd hr⟩
  · exact ⟨_, exec_of_not_wellFormed (.inr ⟨csr, rfl⟩) (Bool.eq_false_iff.mpr hout), refused_refuse .badsel s⟩

end Sys2Proof.Machine
end

section
/-! PROOFS. Errors and HALT: the interrupt lines, what a command answers whichever slot it comes from, what HALT
refuses and freezes, and what enters it (60_exceptions.md R230 to R245). -/

namespace Sys2Proof.Machine

/-! ## The interrupt lines (60_exceptions.md R238) -/

/-- Settles O52: the line is a search over the existing buffers. -/
theorem irqLineIsTheOrOfItsSources : Obligations.IrqLineIsTheOrOfItsSources := by
  intro s c
  simp only [irqLine, List.any_eq_true, mem_below, Bool.and_eq_true, decide_eq_true_eq, and_assoc, bufOf]

/-! ## Commands in HALT (60_exceptions.md R236, R242) -/

theorem unlessHalted_of_halted {s : State} (hh : s.halt = true) (k : Host.Outcome State Fault Refusal) :
    unlessHalted s k = .next (refuse .halted s) := by
  simp [unlessHalted, hh]

/-- In HALT every command but CSR.RD is refused by its first check. -/
theorem exec_of_halted {i : Instr} {s : State} (hh : s.halt = true) (hi : ∀ csr, i ≠ .csrRd csr) :
    exec i s = .next (refuse .halted s) := by
  cases i with
  | csrRd csr => exact absurd rfl (hi csr)
  | _ => exact unlessHalted_of_halted hh _

theorem executeCommand_of_halted {c : Command} {s : State} (hh : s.halt = true)
    (hc : ∀ csr, decode c.cw c.data ≠ .ok (.csrRd csr)) : executeCommand c s = .next (refuse .halted s) := by
  cases hdecode : decode c.cw c.data with
  | ok i =>
    rw [executeCommand_of_legal hdecode]
    exact exec_of_halted hh fun csr hi => hc csr (hi ▸ hdecode)
  | error e =>
    rw [executeCommand_of_not_legal (by simp [hdecode]), if_pos hh]

/-- A CSR read answers a value or BADSEL, whatever the state. -/
theorem reads_or_isRefused_csrRd (csr : BitVec 12) (s : State) :
    (∃ v, Reads (.csrRd csr) s v) ∨ IsRefused (.csrRd csr) s .badsel := by
  cases hr : selCsr s.cfg csr with
  | some r => exact .inl ⟨_, reads_csrRd hr⟩
  | none =>
    refine .inr ⟨refuse .badsel s, ?_, refused_refuse .badsel s⟩
    change execCsrRd csr s = _
    rw [execCsrRd, hr]

/-- Settles O6: every command but CSR.RD checks HALT first, and CSR.RD does not look at it. -/
theorem haltedCommandsAreRefused : Obligations.HaltedCommandsAreRefused := fun s _ hh =>
  ⟨fun hc => ⟨_, executeCommand_of_halted hh hc, refused_refuse .halted s⟩,
    fun csr hdecode => ⟨executeCommand_of_legal hdecode s, reads_or_isRefused_csrRd csr s⟩⟩

/-! ## One command from two slots (60_exceptions.md R244, R245) -/

/-- The outcomes of a command in state `s` for the slots `p` and `q` differ in the slot answered only: both are
the same fault, both are held, or both answer the same after the same change, which does not enter HALT. -/
inductive SameFromSlots (s : State) (p q : Port) :
    Host.Outcome State Fault Refusal → Host.Outcome State Fault Refusal → Prop where
  | fault (f : Fault) : SameFromSlots s p q (.fault f) (.fault f)
  | held : SameFromSlots s p q (.next (setIssuer p s)) (.next (setIssuer q s))
  | answered (st : Status) (v : Word) (u : State) (ht : u.trace = s.trace) (hh : u.halt = s.halt) :
      SameFromSlots s p q (.next (respondTo p st v (setIssuer p u))) (.next (respondTo q st v (setIssuer q u)))

section
variable {s : State} {p q : Port}

theorem sameFromSlots_refuse (st : Status) :
    SameFromSlots s p q (.next (refuse st (setIssuer p s))) (.next (refuse st (setIssuer q s))) :=
  .answered st 0 s rfl rfl

theorem sameFromSlots_respondOk (v : Word) {u : State} (ht : u.trace = s.trace) (hh : u.halt = s.halt) :
    SameFromSlots s p q (.next (respondOk v (setIssuer p u))) (.next (respondOk v (setIssuer q u))) :=
  .answered .ok v u ht hh

theorem sameFromSlots_ite {b : Prop} [Decidable b] {k k' l l' : Host.Outcome State Fault Refusal}
    (hk : SameFromSlots s p q k k') (hl : SameFromSlots s p q l l') :
    SameFromSlots s p q (if b then k else l) (if b then k' else l') := by
  split
  · exact hk
  · exact hl

theorem sameFromSlots_unlessHalted {k k' : Host.Outcome State Fault Refusal} (hk : SameFromSlots s p q k k') :
    SameFromSlots s p q (unlessHalted (setIssuer p s) k) (unlessHalted (setIssuer q s) k') :=
  sameFromSlots_ite (sameFromSlots_refuse .halted) hk

theorem sameFromSlots_enqueueRespond (i : Idx) (w : Word) :
    SameFromSlots s p q (enqueueRespond i w (setIssuer p s)) (enqueueRespond i w (setIssuer q s)) := by
  simp only [enqueueRespond, bufCfg_setIssuer_other, bufOf_setIssuer_other]
  cases enqueue (bufCfg s i) (bufOf s i) w with
  | error f => exact .fault f
  | ok x => exact sameFromSlots_respondOk 0 (u := setBuf s i x) rfl rfl

theorem sameFromSlots_dequeueRespond (i : Idx) :
    SameFromSlots s p q (dequeueRespond i (setIssuer p s)) (dequeueRespond i (setIssuer q s)) := by
  simp only [dequeueRespond, bufCfg_setIssuer_other, bufOf_setIssuer_other]
  cases dequeue (bufCfg s i) (bufOf s i) with
  | error f => exact .fault f
  | ok vx => exact sameFromSlots_respondOk vx.1 (u := setBuf s i vx.2) rfl rfl

end

/-- No command but ARB.CLAIM and RB.BEGIN looks at the core it comes from, or enters HALT. -/
theorem exec_sameFromSlots {i : Instr} (hclaim : i.opcode ≠ .claim) (hbegin : i.opcode ≠ .begin_) (s : State)
    (p q : Port) : SameFromSlots s p q (exec i (setIssuer p s)) (exec i (setIssuer q s)) := by
  cases i with
  | arbClaim => exact absurd rfl hclaim
  | rbBegin => exact absurd rfl hbegin
  | bqLdc ch st k coef =>
    refine sameFromSlots_unlessHalted ?_
    simp only [setIssuer_cfg]
    cases selChan ch with
    | none => exact sameFromSlots_refuse .badsel
    | some ch' =>
      cases selCoef k with
      | none => exact sameFromSlots_refuse .badsel
      | some k' =>
        dsimp only
        cases selStage s.cfg ch' st with
        | none => exact sameFromSlots_refuse .badsel
        | some i =>
          exact sameFromSlots_ite (sameFromSlots_refuse .badstate)
            (sameFromSlots_respondOk 0 (u := setStage s ch' i (loadCoef (stageOf s ch' i) k' coef)) rfl rfl)
  | bqRds ch st r =>
    refine sameFromSlots_unlessHalted ?_
    simp only [setIssuer_cfg, stageOf_setIssuer_other]
    cases selChan ch with
    | none => exact sameFromSlots_refuse .badsel
    | some ch' =>
      cases selReg r with
      | none => exact sameFromSlots_refuse .badsel
      | some r' =>
        dsimp only
        cases selStage s.cfg ch' st with
        | none => exact sameFromSlots_refuse .badsel
        | some i =>
          dsimp only
          cases readStageReg s.cfg (stageOf s ch' i) r' with
          | none => exact sameFromSlots_refuse .badstate
          | some v => exact sameFromSlots_respondOk v rfl rfl
  | bqStep ch st x =>
    refine sameFromSlots_unlessHalted ?_
    simp only [setIssuer_cfg]
    cases selChan ch with
    | none => exact sameFromSlots_refuse .badsel
    | some ch' =>
      dsimp only
      cases selStage s.cfg ch' st with
      | none => exact sameFromSlots_refuse .badsel
      | some i =>
        exact sameFromSlots_ite
          (sameFromSlots_respondOk _ (u := setStage s ch' i (stageStep s.cfg (stageOf s ch' i) x).1) rfl rfl)
          (sameFromSlots_refuse .badstate)
  | bqChain ch x =>
    refine sameFromSlots_unlessHalted ?_
    cases selChan ch with
    | none => exact sameFromSlots_refuse .badsel
    | some ch' =>
      exact sameFromSlots_ite
        (sameFromSlots_respondOk _
          (u := setChannel s ch' (chainRun s.cfg s.filt[ch'] (below s.cfg.nSt[ch']) x).1) rfl rfl)
        (sameFromSlots_refuse .badstate)
  | alIn | alOut => exact sameFromSlots_unlessHalted (sameFromSlots_respondOk _ rfl rfl)
  | rbWr b w =>
    refine sameFromSlots_unlessHalted ?_
    simp only [setIssuer_cfg]
    cases selBuf s.cfg b with
    | none => exact sameFromSlots_refuse .badsel
    | some i =>
      exact sameFromSlots_ite (sameFromSlots_refuse .badstate)
        (sameFromSlots_ite (sameFromSlots_refuse .full) (sameFromSlots_enqueueRespond i w))
  | rbWrb b w =>
    refine sameFromSlots_unlessHalted ?_
    simp only [setIssuer_cfg]
    cases selBuf s.cfg b with
    | none => exact sameFromSlots_refuse .badsel
    | some i =>
      exact sameFromSlots_ite (sameFromSlots_refuse .badstate)
        (sameFromSlots_ite .held (sameFromSlots_enqueueRespond i w))
  | rbRd b =>
    refine sameFromSlots_unlessHalted ?_
    simp only [setIssuer_cfg]
    cases selBuf s.cfg b with
    | none => exact sameFromSlots_refuse .badsel
    | some i =>
      exact sameFromSlots_ite (sameFromSlots_refuse .badstate)
        (sameFromSlots_ite (sameFromSlots_refuse .empty) (sameFromSlots_dequeueRespond i))
  | rbRdb b =>
    refine sameFromSlots_unlessHalted ?_
    simp only [setIssuer_cfg]
    cases selBuf s.cfg b with
    | none => exact sameFromSlots_refuse .badsel
    | some i =>
      exact sameFromSlots_ite (sameFromSlots_refuse .badstate)
        (sameFromSlots_ite .held (sameFromSlots_dequeueRespond i))
  | rbAck b =>
    refine sameFromSlots_unlessHalted ?_
    simp only [setIssuer_cfg]
    cases selBuf s.cfg b with
    | none => exact sameFromSlots_refuse .badsel
    | some i => exact sameFromSlots_respondOk 0 (u := setBuf s i { bufOf s i with irqPend := false }) rfl rfl
  | seqEn blk u =>
    refine sameFromSlots_unlessHalted ?_
    simp only [setIssuer_cfg]
    cases selUnit s.cfg blk u with
    | none => exact sameFromSlots_refuse .badsel
    | some x =>
      exact sameFromSlots_ite (sameFromSlots_respondOk 0 (u := setUnit s x .waiting) rfl rfl)
        (sameFromSlots_refuse .badstate)
  | syncArm => exact sameFromSlots_unlessHalted (sameFromSlots_respondOk _ (u := startAll s) rfl rfl)
  | csrRd csr =>
    change SameFromSlots s p q (execCsrRd csr (setIssuer p s)) (execCsrRd csr (setIssuer q s))
    simp only [execCsrRd, setIssuer_cfg]
    cases selCsr s.cfg csr with
    | none => exact sameFromSlots_refuse .badsel
    | some r =>
      have hvalue : ∀ p, csrValue (setIssuer p s) r = csrValue s r := fun _ => by cases r <;> rfl
      simp only [hvalue]
      exact sameFromSlots_respondOk _ rfl rfl

/-- The slot that issued a command shows in the slots, the responses and the issuer's own record only. -/
theorem unchanged_setIssuer {s : State} {p q : Port} {part : Part} (hissuer : part ≠ .issuer) :
    unchanged (setIssuer p s) (setIssuer q s) part := by
  cases part with
  | issuer => exact absurd rfl hissuer
  | _ => simp [unchanged]

theorem unchanged_answered {s : State} {p q : Port} {st : Status} {v : Word} {part : Part}
    (hslot : ∀ r, part ≠ .slot r) (htrace : part ≠ .trace) (hissuer : part ≠ .issuer) :
    unchanged (respondTo p st v (setIssuer p s)) (respondTo q st v (setIssuer q s)) part := by
  cases part with
  | slot r => exact absurd rfl (hslot r)
  | trace => exact absurd rfl htrace
  | issuer => exact absurd rfl hissuer
  | _ => simp [unchanged]

/-- Settles O8: the outcomes for the two slots are the same fault, both held, or the same answer. -/
theorem everySlotHasTheSameRights : Obligations.EverySlotHasTheSameRights := by
  intro i s t p q hclaim hbegin hexec
  have hsame := exec_sameFromSlots hclaim hbegin s p q
  generalize exec i (setIssuer q s) = k at hsame
  rw [hexec] at hsame
  cases hsame with
  | held => exact ⟨_, rfl, fun _ _ _ hissuer => unchanged_setIssuer hissuer, .inl ⟨rfl, rfl⟩⟩
  | answered st v u ht =>
    have hanswered : ∀ r, Answered (setIssuer r s) (respondTo r st v (setIssuer r u)) r st v := fun r =>
      ⟨by simp [slotOf_respondTo], by simp [ht]⟩
    exact ⟨_, rfl, fun _ => unchanged_answered, .inr ⟨st, v, hanswered p, hanswered q⟩⟩

/-! ## What HALT freezes (60_exceptions.md R236, R237) -/

/-- In HALT a command only answers. -/
theorem exec_onlyAnswers_of_halted {s t : State} (h : ExecEffect s t) (hh : s.halt = true) :
    OnlyChanges s t [.slot s.issuer, .trace] := by
  cases h with
  | refused st => exact onlyChanges_respondTo s.issuer st 0 s
  | read v => exact onlyChanges_respondTo s.issuer .ok v s
  | held hr | load hr | step hr | chain hr | write hr | take hr | bind hr | ack hr | accept hr | deadlock hr
  | initFailure hr | enable hr | arm hr => simp [hh] at hr

/-- In HALT an event fills or answers a slot, or is a step of an enabled engine. -/
theorem event_frozen_of_halted {s t : State} {e : Event} (h : EventEffect s e t) (hh : s.halt = true)
    (he : e ≠ .reset) :
    (∃ p, OnlyChanges s t [.issuer, .slot p, .trace]) ∨
      ∃ b x, e = .xfer b ∧ xferEnabled s b = true ∧ t = setBuf s b x := by
  cases h with
  | reset => exact absurd rfl he
  | present p c => exact .inl ⟨p, (onlyChanges_setSlot s p (some c)).mono (by simp)⟩
  | nothing => exact .inl ⟨s.issuer, OnlyChanges.refl s _⟩
  | serve p c hc hw t h =>
    have hissuer : OnlyChanges s (setIssuer p s) [.issuer] := fun part hp =>
      unchanged_setIssuer (s := s) (p := s.issuer) (by simpa using hp)
    exact .inl ⟨p, hissuer.trans (exec_onlyAnswers_of_halted h hh)⟩
  | scan hr | load hr | record hr => simp [hh] at hr
  | engineIn b hx _ x => exact .inr ⟨b, x, rfl, hx, rfl⟩
  | engineOut b hx _ x => exact .inr ⟨b, x, rfl, hx, rfl⟩

/-- Settles O54: in HALT a command only answers, the arbitrator rests, and an engine writes its own buffer. -/
theorem haltIsPermanent : Obligations.HaltIsPermanent := by
  intro s t hstep hh he
  have hnext := nextEvent_onlyChanges s
  rcases event_frozen_of_halted (step_effect hstep) (by simpa using hh) he with
    ⟨p, hframe⟩ | ⟨b, x, hb, henabled, rfl⟩
  · have hframe := hnext.trans hframe
    refine ⟨fun part hslot hbuffer hrest => hframe part ?_, fun b hb => absurd (hframe (.buffer b) (by simp)) hb⟩
    have hp := hslot p
    simp_all
  · have hframe := hnext.trans (onlyChanges_setBuf (nextEvent s).2 b x)
    refine ⟨fun part hslot hbuffer hrest => hframe part ?_, fun b' hb' => ?_⟩
    · have hp := hbuffer b
      simp_all
    · have hbb : b' = b := by
        by_contra hne
        exact hb' (hframe (.buffer b') (by simpa using hne))
      obtain ⟨agenda, envPos, hschedule⟩ := nextEvent_eq_setSchedule s
      rw [hschedule] at henabled
      subst hbb
      exact ⟨hb, henabled⟩

/-! ## What enters HALT (60_exceptions.md R230, 43_ringbuffer.md R182) -/

/-- ARB.CLAIM enters HALT only from the core that holds the lock. -/
theorem arbClaim_enters_halt {p : BitVec 4} {len : BitVec 8} {s t : State} (h : exec (.arbClaim p len) s = .next t)
    (hh : s.halt = false) (ht : t.halt = true) :
    s.lock.held = true ∧ s.lock.owner = s.issuer.core ∧ Raised .deadlock s.issuer s t := by
  cases hw : (Instr.arbClaim p len).wellFormed s.cfg with
  | false =>
    rw [exec_of_not_wellFormed (.inl hh) hw] at h
    cases h
    simp [hh] at ht
  | true =>
    obtain ⟨hp, hlen⟩ := Bool.and_eq_true_iff.mp hw
    rw [exec_arbClaim hh (prog := p.toFin) rfl (of_decide_eq_true hp) hlen] at h
    split at h
    · cases h; simp [hh] at ht
    · next hheld =>
      split at h
      · next howner => cases h; exact ⟨by simpa using hheld, howner, raised_raiseFatal hh .deadlock s.issuer⟩
      · cases h; simp [hh] at ht

/-- RB.BEGIN enters HALT only when it cannot arm the buffer. -/
theorem rbBegin_enters_halt {b tblk tu : BitVec 4} {cb : Bool} {a : Word} {s t : State}
    (h : exec (.rbBegin b tblk tu cb a) s = .next t) (hh : s.halt = false) (ht : t.halt = true) :
    Raised .transferInitFailure s.issuer s t ∧ ∃ (i : Idx) (x : UnitId), b.toNat = i.val ∧ i.val < s.cfg.nBuf ∧
      tblk.toNat = x.blk.val ∧ tu.toNat = x.u.val ∧ x.u.val < s.cfg.u ∧ CannotArm s i x a := by
  cases hw : (Instr.rbBegin b tblk tu cb a).wellFormed s.cfg with
  | false =>
    rw [exec_of_not_wellFormed (.inl hh) hw] at h
    cases h
    simp [hh] at ht
  | true =>
    simp only [Instr.wellFormed, Bool.and_eq_true, decide_eq_true_eq] at hw
    obtain ⟨⟨hb, hblk⟩, hu⟩ := hw
    rw [exec_rbBegin hh (i := b.toFin) (x := ⟨⟨tblk.toNat, hblk⟩, tu.toFin⟩) rfl hb rfl rfl hu] at h
    split at h
    · next hfails =>
      cases h
      exact ⟨raised_raiseFatal hh .transferInitFailure s.issuer, _, _, rfl, hb, rfl, rfl, hu,
        (beginFails_iff _ _ _ _).mp hfails⟩
    · cases h; simp [hh] at ht

theorem SameFromSlots.halt_eq {s t : State} {p q : Port} {k : Host.Outcome State Fault Refusal}
    (h : SameFromSlots s p q (.next t) k) : t.halt = s.halt := by
  cases h with
  | held => rfl
  | answered _ _ _ _ hh => exact hh

/-- No other command enters HALT. -/
theorem exec_halt_of_opcode {i : Instr} {s t : State} (h : exec i s = .next t) (hclaim : i.opcode ≠ .claim)
    (hbegin : i.opcode ≠ .begin_) : t.halt = s.halt :=
  SameFromSlots.halt_eq (h ▸ exec_sameFromSlots hclaim hbegin s s.issuer s.issuer)

/-- The command `c` of slot `p` raises the error `e` in state `s`: the rows of R230 for ARB.CLAIM and RB.BEGIN. -/
def CommandRaises (s : State) (p : Port) (c : Command) (e : FatalError) : Prop :=
  (e = .deadlock ∧ s.lock.held = true ∧ s.lock.owner = p.core ∧
    ∃ q len, decode c.cw c.data = .ok (.arbClaim q len)) ∨
  (e = .transferInitFailure ∧
    ∃ (b tblk tu : BitVec 4) (cb : Bool) (a : Word) (i : Idx) (x : UnitId),
      decode c.cw c.data = .ok (.rbBegin b tblk tu cb a) ∧ b.toNat = i.val ∧ i.val < s.cfg.nBuf ∧
      tblk.toNat = x.blk.val ∧ tu.toNat = x.u.val ∧ x.u.val < s.cfg.u ∧ CannotArm s i x a)

/-- The step of the arbitrator in state `s` fails the claim: the rows of R230 for SCAN and LOAD. -/
def ClaimFails (s : State) : Prop :=
  (s.arbState = .scan ∧ ∀ x, x.u.val < s.cfg.u → unitStateOf s x ≠ .free) ∨
  (s.arbState = .load ∧ (entryOf s s.arbSel.unit.blk s.arbReq.p).valid = false ∧
    s.cfg.m < (blkOf s s.arbSel.unit.blk).imemUsed + s.arbReq.len.toNat)

theorem executeCommand_enters_halt {c : Command} {s t : State} (h : executeCommand c s = .next t)
    (hh : s.halt = false) (ht : t.halt = true) :
    ∃ e, Raised e s.issuer s t ∧ CommandRaises s s.issuer c e := by
  cases hdecode : decode c.cw c.data with
  | error e =>
    rw [executeCommand_of_not_legal (by simp [hdecode])] at h
    cases h
    simp [hh] at ht
  | ok instr =>
    rw [executeCommand_of_legal hdecode] at h
    cases instr with
    | arbClaim q len =>
      obtain ⟨hheld, howner, hraised⟩ := arbClaim_enters_halt h hh ht
      exact ⟨.deadlock, hraised, .inl ⟨rfl, hheld, howner, q, len, hdecode⟩⟩
    | rbBegin b tblk tu cb a =>
      obtain ⟨hraised, i, x, hcause⟩ := rbBegin_enters_halt h hh ht
      exact ⟨.transferInitFailure, hraised, .inr ⟨rfl, b, tblk, tu, cb, a, i, x, hdecode, hcause⟩⟩
    | _ =>
      have hsame := exec_halt_of_opcode h (by simp [Instr.opcode]) (by simp [Instr.opcode])
      simp [hsame, hh] at ht

theorem serve_enters_halt {p : Port} {s t : State} (h : serve p s = .next t) (hh : s.halt = false)
    (ht : t.halt = true) : ∃ e c, Raised e p s t ∧ slotOf s p = some c ∧ CommandRaises s p c e := by
  cases hc : slotOf s p with
  | none =>
    simp only [serve, hc] at h
    cases h
    simp [hh] at ht
  | some c =>
    cases hw : claimInProgress s p with
    | true =>
      rw [serve_waits hw hh] at h
      cases h
      simp [hh] at ht
    | false =>
      rw [serve_executes hc (.inl hw)] at h
      obtain ⟨e, hraised, hcause⟩ := executeCommand_enters_halt h hh ht
      exact ⟨e, c, hraised, rfl, hcause⟩

theorem arbScan_enters_halt {s : State} (hh : s.halt = false) (ht : (arbScan s).halt = true) :
    arbScan s = failClaim s ∧ ∀ x, x.u.val < s.cfg.u → unitStateOf s x ≠ .free := by
  cases hfind : firstFree s with
  | none => exact ⟨arbScan_of_none hfind, (firstFree_eq_none s).mp hfind⟩
  | some x =>
    rw [arbScan_of_some hfind] at ht
    simp [hh] at ht

theorem arbLoad_enters_halt {s : State} (hh : s.halt = false) (ht : (arbLoad s).halt = true) :
    arbLoad s = failClaim s ∧ (entryOf s s.arbSel.unit.blk s.arbReq.p).valid = false ∧
      s.cfg.m < (blkOf s s.arbSel.unit.blk).imemUsed + s.arbReq.len.toNat := by
  cases hv : (entryOf s s.arbSel.unit.blk s.arbReq.p).valid with
  | true =>
    rw [arbLoad_of_resident hv] at ht
    simp [hh] at ht
  | false =>
    rcases Nat.lt_or_ge s.cfg.m ((blkOf s s.arbSel.unit.blk).imemUsed + s.arbReq.len.toNat) with hm | hm
    · exact ⟨arbLoad_of_no_room hv hm, rfl, hm⟩
    · rw [arbLoad_of_fits hv hm] at ht
      simp [hh] at ht

theorem arb_enters_halt {s t : State} (h : EventEffect s .arb t) (hh : s.halt = false) (ht : t.halt = true) :
    Raised .resourceExhausted s.arbReq.port s t ∧ ClaimFails s := by
  obtain ⟨hraised, -⟩ := failClaim_spec hh
  cases h with
  | nothing => simp [hh] at ht
  | scan _ hs =>
    obtain ⟨hfails, hnone⟩ := arbScan_enters_halt hh ht
    exact ⟨hfails ▸ hraised, .inl ⟨hs, hnone⟩⟩
  | load _ hs =>
    obtain ⟨hfails, hroom⟩ := arbLoad_enters_halt hh ht
    exact ⟨hfails ▸ hraised, .inr ⟨hs, hroom⟩⟩
  | record =>
    obtain ⟨hsame, -⟩ := onlyChanges_arbRecord s .error (by simp)
    simp [hsame, hh] at ht

/-- Settles O53: presentations, engines and reset do not enter HALT; a served command and a step of the
arbitrator do so under the conditions of R230, which taking the event does not touch. -/
theorem onlyTheThreeErrorsEnterHalt : Obligations.OnlyTheThreeErrorsEnterHalt := by
  intro s t hstep hh ht
  have heffect := step_effect hstep
  obtain ⟨agenda, envPos, hnext⟩ := nextEvent_eq_setSchedule s
  rw [hnext] at heffect
  cases he : (nextEvent s).1 with
  | reset | present | xfer =>
    rw [he] at heffect
    cases heffect <;> simp [hh, resetInput, State.resetWith] at ht
  | arb =>
    rw [he] at heffect
    obtain ⟨hraised, hfails⟩ := arb_enters_halt heffect hh ht
    exact ⟨_, _, hraised, .inl ⟨rfl, rfl, rfl, hfails⟩⟩
  | serve p =>
    rw [step_of_serve he, hnext] at hstep
    obtain ⟨e, c, hraised, hc, hcause⟩ := serve_enters_halt hstep hh ht
    exact ⟨p, e, hraised, .inr ⟨rfl, c, hc, hcause⟩⟩

end Sys2Proof.Machine
end

section
/-! PROOFS. The reset state under the events of the agents: an idle arbitrator, an unbound buffer and an empty slot
have no step (70_reset_and_hazards.md R261). -/

namespace Sys2Proof.Machine

section
variable {s : State}

theorem runEvent_arb_of_idle (hs : s.arbState = .idle) : runEvent .arb s = .next s := by
  simp [runEvent, arbStep, hs]

theorem runEvent_serve_of_empty {p : Port} (hp : slotOf s p = none) : runEvent (.serve p) s = .next s := by
  simp [runEvent, serve, hp]

theorem xferEnabled_of_unbound {b : Idx} (hb : (bufOf s b).bound = false) : xferEnabled s b = false := by
  rw [Bool.eq_false_iff, Ne, xferEnabled_iff]
  rintro ⟨-, hbound, -⟩
  simp [hb] at hbound

end

/-- After reset no buffer is bound (10_state.md R46). -/
theorem bound_resetWith (c : Config) (b : Idx) : (bufOf (State.resetWith c) b).bound = false := by
  simp [Buffer.reset]

/-- Settles O60: the reset values leave each agent without a step. -/
theorem resetStateIsStable : Obligations.ResetStateIsStable := by
  rintro c e (rfl | ⟨b, rfl⟩ | ⟨p, rfl⟩)
  · exact runEvent_arb_of_idle rfl
  · exact runEvent_xfer_of_not_enabled (xferEnabled_of_unbound (bound_resetWith c b))
  · exact runEvent_serve_of_empty (slotOf_resetWith c p)

end Sys2Proof.Machine
end
